-- ==== Sys2Proof/Word.lean ====
section
/-! DEFINITION. The widths of the block: command and result words (30_encoding.md R80, R82), the 24-bit counters and
indexes (00_scope.md R7, `CW` = 24), the 16-bit checksum (10_state.md R21) and 8-bit cells (20_memory.md R50). -/

namespace Sys2Proof

/-- A command word or a result word (R80, R82). -/
abbrev Word := BitVec 32

/-- A counter, an index or an immediate: `CW` = 24 bits (R7, R22, R23, R27, R30, R80). -/
abbrev Count := BitVec 24

/-- The checksum accumulator and the data register (R21, R26). -/
abbrev Half := BitVec 16

/-- A symbol of BITS or OBITS, a PCM sample, a byte of RBUF (R50). -/
abbrev Byte := BitVec 8

end Sys2Proof
end

