-- ==== Sys2Proof/Syntax.lean ====
section
/-! DEFINITION. The commands of the block (30_encoding.md R83), one constructor per row of the opcode table, and the
names their operands stand for. Every operand type has exactly the values its `w` bits admit (R81), so no term of
`Instr` is ill formed. -/

namespace Sys2Proof

/-- A section of a recording: header (0) or payload (1) (00_scope.md R7). -/
inductive Section where
  | header
  | payload
  deriving DecidableEq, Repr

/-- A pulse profile: regular (0) or fast (1) (00_scope.md R7). -/
inductive PulseProfile where
  | regular
  | fast
  deriving DecidableEq, Repr

/-- Where the output stage sends its bits: BITS (0) or PCM (1) (10_state.md R24). -/
inductive OutMode where
  | bits
  | pcm
  deriving DecidableEq, Repr

/-- The eight registers, numbered 0 to 7 in this order (10_state.md R20). -/
inductive Reg where
  | ctrl
  | stat
  | cks
  | idx
  | run
  | data
  | eidx
  | len
  deriving DecidableEq, Repr

/-- The 21 commands (30_encoding.md R83). -/
inductive Instr where
  | nop
  | rst
  | getr (r : Reg)
  | setidx (n : Count)
  | fwr (v : Byte)
  | fwck
  | frd
  | frdn (n : Half)
  | frck
  | ckclr
  | ssel (sec : Section)
  | srst
  | sstep
  | scan
  | rmark
  | omode (m : OutMode)
  | psel (p : PulseProfile)
  | emitb (b : Bool)
  | gap (n : Count)
  | mark (sec : Section)
  | rpt
  deriving DecidableEq, Repr

end Sys2Proof
end

