-- ==== Sys2Proof/Config.lean ====
section
/-! DEFINITION. What an implementation fixes: the parameter table of 00_scope.md R7, every value OPEN (92 D26), and the
free values. The table is plain data, so that a state can carry any instance of it; the hardware's own instance is an
opaque constant that nothing can evaluate (assumption 1). -/

namespace Sys2Proof

/-- One value for each section. -/
structure PerSection (α : Type) where
  header  : α
  payload : α
  deriving DecidableEq, Repr, Inhabited

/-- The entry of section `sec`. -/
def PerSection.get {α : Type} (t : PerSection α) (sec : Section) : α :=
  match sec with
  | .header => t.header
  | .payload => t.payload

/-- One value for each pulse profile. -/
structure PerProfile (α : Type) where
  regular : α
  fast    : α
  deriving DecidableEq, Repr, Inhabited

/-- The entry of pulse profile `p`. -/
def PerProfile.get {α : Type} (t : PerProfile α) (p : PulseProfile) : α :=
  match p with
  | .regular => t.regular
  | .fast => t.fast

/-- A scanner profile: `MINZ[s]`, `HRUN[s]`, `LRUN[s]` (R7). -/
structure ScanProfile where
  minZ : Count
  hRun : Count
  lRun : Count
  deriving DecidableEq, Repr, Inhabited

/-- The (high-sample-count, low-sample-count) pair of a pulse (R7, R141). -/
structure PulsePair where
  hi : Count
  lo : Count
  deriving DecidableEq, Repr, Inhabited

/-- The lengths of an emitted sync mark: `GAPLEN[p][s]`, `MARK_HI[p][s]`, `MARK_LO[p][s]` (R7, R146). -/
structure MarkLengths where
  gap    : Count
  markHi : Count
  markLo : Count
  deriving DecidableEq, Repr, Inhabited

/-- The table of one pulse profile: the long pulse (a 1 bit), the short pulse (a 0 bit) and the mark lengths of each
section (R7). -/
structure PulseTable where
  long  : PulsePair
  short : PulsePair
  marks : PerSection MarkLengths
  deriving DecidableEq, Repr, Inhabited

/-- The byte order of the header's 16-bit fields, `HDR16_ORDER` (R7, R171). -/
inductive ByteOrder where
  | little
  | big
  deriving DecidableEq, Repr, Inhabited

/-- The parameter table (R7). Every value is below 2^24 by its type, `sampleRate` and `streamCap` too, so a table that
breaks premise WF3 of R8 cannot be written down (93 U12: refuse; `Params.wf3` in WellFormed.lean). `streamCap` bounds no stream of the block (20_memory.md R54): `none` is 'unbounded', and only Safety.lean reads it.
`sampleRate`, `crByte` and `hdr16` belong to the host layer. -/
structure Params where
  scan       : PerSection ScanProfile
  pulse      : PerProfile PulseTable
  rptZeros   : Count
  lvlLow     : Byte
  lvlHigh    : Byte
  sampleRate : Count
  crByte     : Byte
  hdr16      : ByteOrder
  streamCap  : Option Count
  deriving DecidableEq, Repr, Inhabited

namespace Config

/-- The hardware's parameter table. The spec gives no value (92 D26). -/
opaque params : Params

/-- Free value: what RUN holds after a count past 2^24 - 1, which 10_state.md R23 says never happens (assumption 5). -/
opaque freeRun : Nat → Count

/-- Free value: the logical name of a header whose 17 name bytes hold no terminator (93 U13, assumption 8). -/
opaque freeName : List Byte → List Byte

/-- Free value: what a 4-byte size field of the audio container holds for a size of 2^32 or more, which does not fit it
(20_memory.md R54, R57; 44_record_layer.md R186; assumption 18). -/
opaque freeSize : Nat → BitVec 32

end Config

end Sys2Proof
end

