-- ==== Sys2Proof/WellFormed.lean ====
section
/-! DEFINITION. The checks: which command words are one of the 21 commands (30_encoding.md R81, R83, R84), which input
sequences can be bound (10_state.md R33), and the premises WF1 to WF3 on the parameters (00_scope.md R8). A term of
`Instr` needs no check of its own: its operand types admit exactly the encoded values. -/

namespace Sys2Proof

/-- One row of the opcode map: a word `c` is its command exactly when `c &&& mask = pattern` (R83). -/
structure OpcodeRow where
  mnemonic : String
  pattern  : Word
  mask     : Word
  deriving DecidableEq, Repr

/-- Rows of the system family (R83). -/
def systemRows : List OpcodeRow :=
  [⟨"NOP", 0x00000000, 0xFFFFFFFF⟩, ⟨"RST", 0x01000000, 0xFFFFFFFF⟩,
   ⟨"GETR", 0x02000000, 0xFFFFFFF8⟩, ⟨"SETIDX", 0x03000000, 0xFF000000⟩]

/-- Rows of the frame unit (R83). -/
def frameRows : List OpcodeRow :=
  [⟨"FWR", 0x10000000, 0xFFFFFF00⟩, ⟨"FWCK", 0x11000000, 0xFFFFFFFF⟩,
   ⟨"FRD", 0x12000000, 0xFFFFFFFF⟩, ⟨"FRDN", 0x13000000, 0xFFFF0000⟩,
   ⟨"FRCK", 0x14000000, 0xFFFFFFFF⟩, ⟨"CKCLR", 0x15000000, 0xFFFFFFFF⟩]

/-- Rows of the scanner (R83). -/
def scannerRows : List OpcodeRow :=
  [⟨"SSEL", 0x20000000, 0xFFFFFFFE⟩, ⟨"SRST", 0x21000000, 0xFFFFFFFF⟩,
   ⟨"SSTEP", 0x22000000, 0xFFFFFFFF⟩, ⟨"SCAN", 0x23000000, 0xFFFFFFFF⟩,
   ⟨"RMARK", 0x24000000, 0xFFFFFFFF⟩]

/-- Rows of the output and pulse unit (R83). -/
def outputRows : List OpcodeRow :=
  [⟨"OMODE", 0x30000000, 0xFFFFFFFE⟩, ⟨"PSEL", 0x31000000, 0xFFFFFFFE⟩,
   ⟨"EMITB", 0x32000000, 0xFFFFFFFE⟩, ⟨"GAP", 0x33000000, 0xFF000000⟩,
   ⟨"MARK", 0x34000000, 0xFFFFFFFE⟩, ⟨"RPT", 0x35000000, 0xFFFFFFFF⟩]

/-- The opcode map (R83). -/
def opcodeRows : List OpcodeRow := systemRows ++ frameRows ++ scannerRows ++ outputRows

/-- The word is one of the 21 commands; every other word is illegal (R83, R84). -/
def commandWordWf (c : Word) : Bool := opcodeRows.any fun r => c &&& r.mask == r.pattern

/-- The sequence can be bound as BITS: its length is at most 2^24 - 1 (R33, R52). -/
def bindable (q : List Byte) : Bool := decide (q.length < 2 ^ 24)

/-- WF1: both marker runs of the scanner profile of `sec` are at least 1 (R8). -/
def Params.wf1At (p : Params) (sec : Section) : Bool :=
  1 ≤ (p.scan.get sec).hRun && 1 ≤ (p.scan.get sec).lRun

/-- WF1 (R8). -/
def Params.wf1 (p : Params) : Bool := p.wf1At .header && p.wf1At .payload

/-- WF2 for one pulse profile and one section: the emitted mark is one the scanner profile accepts (R8). -/
def Params.wf2At (p : Params) (pp : PulseProfile) (sec : Section) : Bool :=
  (p.scan.get sec).minZ ≤ ((p.pulse.get pp).marks.get sec).gap &&
    ((p.pulse.get pp).marks.get sec).markHi == (p.scan.get sec).hRun &&
    ((p.pulse.get pp).marks.get sec).markLo == (p.scan.get sec).lRun

/-- WF2 (R8). -/
def Params.wf2 (p : Params) : Bool :=
  p.wf2At .regular .header && p.wf2At .regular .payload && p.wf2At .fast .header && p.wf2At .fast .payload

/-- The numeric values of one pulse table (R7). -/
def PulseTable.values (t : PulseTable) : List Nat :=
  [t.long.hi.toNat, t.long.lo.toNat, t.short.hi.toNat, t.short.lo.toNat,
   t.marks.header.gap.toNat, t.marks.header.markHi.toNat, t.marks.header.markLo.toNat,
   t.marks.payload.gap.toNat, t.marks.payload.markHi.toNat, t.marks.payload.markLo.toNat]

/-- The numeric values of the parameter table; an unbounded `STREAM_CAP` has none (R7). -/
def Params.values (p : Params) : List Nat :=
  [p.scan.header.minZ.toNat, p.scan.header.hRun.toNat, p.scan.header.lRun.toNat,
   p.scan.payload.minZ.toNat, p.scan.payload.hRun.toNat, p.scan.payload.lRun.toNat,
   p.rptZeros.toNat, p.lvlLow.toNat, p.lvlHigh.toNat, p.sampleRate.toNat, p.crByte.toNat] ++
    p.pulse.regular.values ++ p.pulse.fast.values ++ (p.streamCap.map BitVec.toNat).toList

/-- WF3: every parameter is less than 2^24 (R8). Every table has it, by the types of its fields (`Params.wf3_holds` in
Laws/WellFormed.lean); a table that breaks it is refused (93 U12). -/
def Params.wf3 (p : Params) : Bool := p.values.all fun n => decide (n < 2 ^ 24)

end Sys2Proof
end

