-- ==== Sys2Proof/Decode.lean ====
section
/-! DEFINITION. Decoding a command word, total and rejecting by name, and the encoder after it (30_encoding.md R80 to
R86). -/

namespace Sys2Proof

/-- Why a word is illegal (R84). -/
inductive Illegal where
  /-- Its `op` value is not in the opcode map. -/
  | opcode
  /-- Its `op` is listed, but a bit of `imm[23:w]` is set. -/
  | immediate
  deriving DecidableEq, Repr

/-- `op`, bits 31:24 of a command word (R80). -/
def opField (c : Word) : BitVec 8 := c.extractLsb' 24 8

/-- `imm`, bits 23:0 of a command word (R80). -/
def immField (c : Word) : Count := c.extractLsb' 0 24

/-- The section a 1-bit operand names (R7). -/
def sectionOf (b : BitVec 1) : Section := if b = 0 then .header else .payload

/-- The pulse profile a 1-bit operand names (R7). -/
def profileOf (b : BitVec 1) : PulseProfile := if b = 0 then .regular else .fast

/-- The output mode a 1-bit operand names (R24). -/
def outModeOf (b : BitVec 1) : OutMode := if b = 0 then .bits else .pcm

/-- The register a 3-bit operand names (R20). -/
def regOf (n : BitVec 3) : Reg :=
  match n.toNat with
  | 0 => .ctrl
  | 1 => .stat
  | 2 => .cks
  | 3 => .idx
  | 4 => .run
  | 5 => .data
  | 6 => .eidx
  | _ => .len

/-- The number of a section (R7). -/
def sectionBit : Section → BitVec 1
  | .header => 0
  | .payload => 1

/-- The number of a pulse profile (R7). -/
def profileBit : PulseProfile → BitVec 1
  | .regular => 0
  | .fast => 1

/-- The number of an output mode (R24). -/
def outModeBit : OutMode → BitVec 1
  | .bits => 0
  | .pcm => 1

/-- The number of a register (R20). -/
def regNumber : Reg → BitVec 3
  | .ctrl => 0
  | .stat => 1
  | .cks => 2
  | .idx => 3
  | .run => 4
  | .data => 5
  | .eidx => 6
  | .len => 7

/-- A command with a `w`-bit operand: bits `imm[23:w]` must be 0 and the operand is `imm[w-1:0]` (R81). -/
def withOperand (w : Nat) (imm : Count) (f : BitVec w → Instr) : Except Illegal Instr :=
  if imm >>> w = 0 then .ok (f (imm.setWidth w)) else .error .immediate

/-- A command with no operand: `imm` must be 0 (R81). -/
def noOperand (imm : Count) (i : Instr) : Except Illegal Instr :=
  if imm = 0 then .ok i else .error .immediate

/-- The command a word stands for, or why it is illegal (R83, R84, R86). -/
def decode (c : Word) : Except Illegal Instr :=
  match (opField c).toNat with
  | 0x00 => noOperand (immField c) .nop
  | 0x01 => noOperand (immField c) .rst
  | 0x02 => withOperand 3 (immField c) fun r => .getr (regOf r)
  | 0x03 => withOperand 24 (immField c) fun n => .setidx n
  | 0x10 => withOperand 8 (immField c) fun v => .fwr v
  | 0x11 => noOperand (immField c) .fwck
  | 0x12 => noOperand (immField c) .frd
  | 0x13 => withOperand 16 (immField c) fun n => .frdn n
  | 0x14 => noOperand (immField c) .frck
  | 0x15 => noOperand (immField c) .ckclr
  | 0x20 => withOperand 1 (immField c) fun b => .ssel (sectionOf b)
  | 0x21 => noOperand (immField c) .srst
  | 0x22 => noOperand (immField c) .sstep
  | 0x23 => noOperand (immField c) .scan
  | 0x24 => noOperand (immField c) .rmark
  | 0x30 => withOperand 1 (immField c) fun b => .omode (outModeOf b)
  | 0x31 => withOperand 1 (immField c) fun b => .psel (profileOf b)
  | 0x32 => withOperand 1 (immField c) fun b => .emitb (b = 1)
  | 0x33 => withOperand 24 (immField c) fun n => .gap n
  | 0x34 => withOperand 1 (immField c) fun b => .mark (sectionOf b)
  | 0x35 => noOperand (immField c) .rpt
  | _ => .error .opcode

/-- The opcode of a command (R83). -/
def opcodeOf : Instr → BitVec 8
  | .nop => 0x00
  | .rst => 0x01
  | .getr _ => 0x02
  | .setidx _ => 0x03
  | .fwr _ => 0x10
  | .fwck => 0x11
  | .frd => 0x12
  | .frdn _ => 0x13
  | .frck => 0x14
  | .ckclr => 0x15
  | .ssel _ => 0x20
  | .srst => 0x21
  | .sstep => 0x22
  | .scan => 0x23
  | .rmark => 0x24
  | .omode _ => 0x30
  | .psel _ => 0x31
  | .emitb _ => 0x32
  | .gap _ => 0x33
  | .mark _ => 0x34
  | .rpt => 0x35

/-- The mnemonic of a command, as the opcode map spells it (R83). -/
def mnemonicOf : Instr → String
  | .nop => "NOP"
  | .rst => "RST"
  | .getr _ => "GETR"
  | .setidx _ => "SETIDX"
  | .fwr _ => "FWR"
  | .fwck => "FWCK"
  | .frd => "FRD"
  | .frdn _ => "FRDN"
  | .frck => "FRCK"
  | .ckclr => "CKCLR"
  | .ssel _ => "SSEL"
  | .srst => "SRST"
  | .sstep => "SSTEP"
  | .scan => "SCAN"
  | .rmark => "RMARK"
  | .omode _ => "OMODE"
  | .psel _ => "PSEL"
  | .emitb _ => "EMITB"
  | .gap _ => "GAP"
  | .mark _ => "MARK"
  | .rpt => "RPT"

/-- The operand of a command, zero-extended into `imm` (R81). -/
def immOf : Instr → Count
  | .nop => 0
  | .rst => 0
  | .getr r => (regNumber r).setWidth 24
  | .setidx n => n
  | .fwr v => v.setWidth 24
  | .fwck => 0
  | .frd => 0
  | .frdn n => n.setWidth 24
  | .frck => 0
  | .ckclr => 0
  | .ssel sec => (sectionBit sec).setWidth 24
  | .srst => 0
  | .sstep => 0
  | .scan => 0
  | .rmark => 0
  | .omode m => (outModeBit m).setWidth 24
  | .psel p => (profileBit p).setWidth 24
  | .emitb b => (BitVec.ofBool b).setWidth 24
  | .gap n => n
  | .mark sec => (sectionBit sec).setWidth 24
  | .rpt => 0

/-- The word of a command: `op` in bits 31:24, `imm` in bits 23:0 (R80). -/
def encode (i : Instr) : Word := opcodeOf i ++ immOf i

/-- The one word accepted while the fault bit is set (60_exceptions.md R206). -/
def rstWord : Word := 0x01000000

/-- The command read from the `nbits` low bits of `w`. A command is one whole 32-bit word, which no bus splits
(20_memory.md R57, R59), so its bits are the table's bits. -/
def decodeTableWord (nbits w : Nat) : Option Instr :=
  match decode (BitVec.ofNat 32 (w % 2 ^ nbits)) with
  | .ok i => some i
  | .error _ => none

end Sys2Proof
end

