-- ==== Sys2Proof/Machine/State.lean ====
section
/-! DEFINITION. The machine's state as plain data: the eight registers of 10_state.md R20, the input space BITS, the
three output streams, and what the step reads that is not state of the block (the parameter table, the host's pending
actions, the result words delivered). -/

namespace Sys2Proof.Machine

/-- The scanner states of `STAT.SST` (10_state.md R25, R29: the values 5 to 7 never occur). -/
inductive ScanState where
  | seekingZeros
  | countingHighMarker
  | countingLowMarker
  | found
  | failed
  deriving DecidableEq, Repr

/-- The error kinds, result codes 1 to 8 in this order (60_exceptions.md R201). -/
inductive Kind where
  | startBitMissing
  | truncated
  | checksumMismatch
  | tapeMarkNotFound
  | repeatMarkNotFound
  | badSymbol
  | illegalCommand
  | endOfInput
  deriving DecidableEq, Repr

/-- `CTRL`, register 0 (10_state.md R24). -/
structure Ctrl where
  omode : OutMode
  psel  : PulseProfile
  ssel  : Section
  deriving DecidableEq, Repr

/-- `STAT`, register 1 (10_state.md R25). `err` is `none` while there was no failure since reset. -/
structure Stat where
  sst : ScanState
  flt : Bool
  err : Option Kind
  deriving DecidableEq, Repr

/-- What the host does to the block, each between two commands (00_scope.md R10, R11; 20_memory.md R66). -/
inductive HostEvent where
  /-- Issue a command word (30_encoding.md R80). -/
  | command (w : Word)
  /-- Bind a whole input sequence as BITS (10_state.md R33). -/
  | bind (q : List Byte)
  /-- Power-on reset (70_reset_and_hazards.md R230). -/
  | powerOn
  deriving DecidableEq, Repr

/-- The state. `bits` lists the symbols of BITS that are not 0x00, by index, in canonical form (assumption 4).
`params`, `inbox` and `results` are not state of the block (00_scope.md R11; assumptions 1, 2, 3).
`free` is the model's own counter of free values (assumption 5). -/
structure State where
  params  : Params
  ctrl    : Ctrl
  stat    : Stat
  cks     : Half
  idx     : Count
  run     : Count
  data    : Half
  eidx    : Count
  len     : Count
  bits    : List Host.Cell
  obits   : List Byte
  samples : List Byte
  rbuf    : List Byte
  inbox   : List HostEvent
  results : List Word
  free    : Nat
  deriving DecidableEq, Repr

/-- Why the machine stops. No command stops it: an error of a command is a result word and a latch (60_exceptions.md
R200, R208). -/
inductive Fault where
  /-- Raised by `step` on a host binding of more than 2^24 - 1 symbols, which would place cells at indexes that do not
  exist (10_state.md R33, 20_memory.md R52). Safe: the spec gives such a binding no meaning (assumption 6). -/
  | inputTooLong
  deriving DecidableEq, Repr

/-- Why an instruction has no meaning. -/
inductive Refusal where
  /-- Raised by an arm of `exec` for an instruction without a meaning yet. No arm raises it. Safe: nothing is proved of
  such an instruction. -/
  | notModelled (mnemonic : String)
  deriving DecidableEq, Repr

/-- `CTRL` after reset (10_state.md R35). -/
def Ctrl.reset : Ctrl := ⟨.bits, .regular, .header⟩

/-- `STAT` after reset (10_state.md R35). -/
def Stat.reset : Stat := ⟨.seekingZeros, false, none⟩

/-- The machine right after power-on reset (10_state.md R35, 70_reset_and_hazards.md R230). -/
def State.reset : State where
  params := Config.params
  ctrl := Ctrl.reset
  stat := Stat.reset
  cks := 0
  idx := 0
  run := 0
  data := 0
  eidx := 0
  len := 0
  bits := []
  obits := []
  samples := []
  rbuf := []
  inbox := []
  results := []
  free := 0

end Sys2Proof.Machine
end

