-- ==== Sys2Proof/Machine/Flags.lean ====
section
/-! DEFINITION. The status bits and control fields as the host reads them (10_state.md R24, R25), the numbers of the
error kinds (60_exceptions.md R201) and of the scanner states (92 D27), and the result word (30_encoding.md R82). The
block has no condition codes (10_state.md R31). -/

namespace Sys2Proof.Machine

/-- The number of a scanner state in `STAT.SST` (R25, D27). -/
def ScanState.number : ScanState → BitVec 3
  | .seekingZeros => 0
  | .countingHighMarker => 1
  | .countingLowMarker => 2
  | .found => 3
  | .failed => 4

/-- The result code of an error kind (R201). -/
def Kind.code : Kind → BitVec 4
  | .startBitMissing => 1
  | .truncated => 2
  | .checksumMismatch => 3
  | .tapeMarkNotFound => 4
  | .repeatMarkNotFound => 5
  | .badSymbol => 6
  | .illegalCommand => 7
  | .endOfInput => 8

/-- `STAT.ERR` as a number: 0 for no failure since reset (R25). -/
def errBits (err : Option Kind) : BitVec 4 :=
  match err with
  | none => 0
  | some k => k.code

/-- The 8 bits of `STAT`: ERR in 7:4, FLT in 3, SST in 2:0 (R25). -/
def statBits (st : Stat) : BitVec 8 := errBits st.err ++ BitVec.ofBool st.flt ++ st.sst.number

/-- The 3 bits of `CTRL`: SSEL in 2, PSEL in 1, OMODE in 0 (R24). -/
def ctrlBits (c : Ctrl) : BitVec 3 := sectionBit c.ssel ++ profileBit c.psel ++ outModeBit c.omode

/-- A result word: the code in 31:28, zero in 27:24, the value in 23:0 (R82). -/
def resultWord (code : BitVec 4) (value : Count) : Word := code ++ (0 : BitVec 4) ++ value

/-- `code`, bits 31:28 of a result word (R82). -/
def resultCode (r : Word) : BitVec 4 := r.extractLsb' 28 4

/-- `value`, bits 23:0 of a result word (R82). -/
def resultValue (r : Word) : Count := r.extractLsb' 0 24

/-- Writes `STAT.SST`. -/
def setSst (x : ScanState) (s : State) : State := { s with stat := { s.stat with sst := x } }

/-- The low byte of `CKS` and of a stored checksum (20_memory.md R56). -/
def lowByte (v : Half) : Byte := v.extractLsb' 0 8

/-- The high byte, which comes first on the tape (20_memory.md R56). -/
def highByte (v : Half) : Byte := v.extractLsb' 8 8

end Sys2Proof.Machine
end

