-- ==== Sys2Proof/Machine/Operands.lean ====
section
/-! DEFINITION. What an operand or a selection field of CTRL names: a register's value (10_state.md R20, 43_system.md
R162), the active scanner profile (41_scanner.md R122), the active pulse profile (42_output.md R143) and the mark
lengths of a section (42_output.md R146). Every immediate is used as it stands (30_encoding.md R81). -/

namespace Sys2Proof.Machine

/-- `x[r]`, zero-extended to 24 bits (R20, R162). -/
def readReg (r : Reg) (s : State) : Count :=
  match r with
  | .ctrl => (ctrlBits s.ctrl).setWidth 24
  | .stat => (statBits s.stat).setWidth 24
  | .cks => s.cks.setWidth 24
  | .idx => s.idx
  | .run => s.run
  | .data => s.data.setWidth 24
  | .eidx => s.eidx
  | .len => s.len

/-- The scanner profile `CTRL.SSEL` selects (R120, R122). -/
def scanProfile (s : State) : ScanProfile := s.params.scan.get s.ctrl.ssel

/-- The pulse table `CTRL.PSEL` selects (R143). -/
def pulseTable (s : State) : PulseTable := s.params.pulse.get s.ctrl.psel

/-- The lengths `MARK sec` emits under the active pulse profile (R146). -/
def markLengths (sec : Section) (s : State) : MarkLengths := (pulseTable s).marks.get sec

end Sys2Proof.Machine
end

