-- ==== Sys2Proof/Machine/Ops.lean ====
section
/-! DEFINITION. The shared operations: reading and binding BITS (20_memory.md R50 to R52), delivering a result and
raising an error (00_scope.md R15, 60_exceptions.md R204, R205), reset (10_state.md R35), the framed byte and the
checksum law (40_frame.md R100, R101, R104, R109), and the output stage (42_output.md R140, R141). -/

namespace Sys2Proof.Machine

/-! ### BITS -/

/-- The symbol at an index of a bound sequence: an index that is not listed holds 0x00 (assumption 4). -/
def cellAt : List Host.Cell → Nat → Byte
  | [], _ => 0
  | (a, b) :: cells, pos => if a = pos then b else cellAt cells pos

/-- The canonical cells of a sequence whose first symbol has index `pos`: rising indexes, no 0x00 listed. -/
def cellsFrom : Nat → List Byte → List Host.Cell
  | _, [] => []
  | pos, b :: q => if b = 0 then cellsFrom (pos + 1) q else (pos, b) :: cellsFrom (pos + 1) q

/-- Cells are in canonical form from index `lo` on: indexes strictly rising, below `len`, no 0x00 listed. -/
def cellsWf : Nat → Nat → List Host.Cell → Bool
  | _, _, [] => true
  | lo, len, (a, b) :: cells => decide (lo ≤ a) && decide (a < len) && (b != 0) && cellsWf (a + 1) len cells

/-- The canonical form of BITS. -/
def Memory.wf (s : State) : Bool := cellsWf 0 s.len.toNat s.bits

/-- `Sym(pos)`: the symbol at `pos`, or `none` at or past LEN, where nothing is read (00_scope.md R14, R52). -/
def symAt (s : State) (pos : Nat) : Option Byte :=
  if pos < s.len.toNat then some (cellAt s.bits pos) else none

/-- A host binding: it replaces BITS and LEN and changes nothing else (10_state.md R33, 70_reset_and_hazards.md R239). -/
def bindInput (q : List Byte) (s : State) : State :=
  { s with bits := cellsFrom 0 q, len := BitVec.ofNat 24 q.length }

/-! ### Results and failures -/

/-- Delivers a result word (R82). -/
def deliver (code : BitVec 4) (value : Count) (s : State) : State :=
  { s with results := s.results ++ [resultWord code value] }

/-- `return (OK, v)` (00_scope.md R15). -/
def ok (v : Count) (s : State) : State := deliver 0 v s

/-- `raise <Kind>(e)`, the one way a command fails. Every kind but `IllegalCommand` writes `STAT.ERR` and `EIDX` and
delivers `e` (R204). `IllegalCommand` writes `STAT.ERR` and sets `STAT.FLT`, leaves `EIDX` and delivers 0 (R205). -/
def raise (k : Kind) (e : Count) (s : State) : State :=
  match k with
  | .illegalCommand =>
    deliver Kind.illegalCommand.code 0 { s with stat := { s.stat with flt := true, err := some .illegalCommand } }
  | k => deliver k.code e { s with stat := { s.stat with err := some k }, eidx := e }

/-- The state `RST` leaves: every register and stream at its reset value, BITS and LEN still bound (10_state.md R35,
70_reset_and_hazards.md R231). It is the only return from the fault state (60_exceptions.md R206). -/
def softReset (s : State) : State :=
  { s with
    ctrl := Ctrl.reset, stat := Stat.reset, cks := 0, idx := 0, run := 0, data := 0, eidx := 0,
    obits := [], samples := [], rbuf := [] }

/-- Power-on reset: as `RST`, and the empty input is bound (10_state.md R35, 70_reset_and_hazards.md R230). -/
def powerOnReset (s : State) : State := { softReset s with bits := [], len := 0 }

/-! ### The framed byte -/

/-- The 8 data bits, most significant first (40_frame.md R100, 20_memory.md R55). -/
def dataBits (v : Byte) : List Bool :=
  [v.getLsbD 7, v.getLsbD 6, v.getLsbD 5, v.getLsbD 4, v.getLsbD 3, v.getLsbD 2, v.getLsbD 1, v.getLsbD 0]

/-- `Frame(v)`: one start bit, then the data bits (40_frame.md R101). -/
def frame (v : Byte) : List Bool := true :: dataBits v

/-- `popcount8(v)`, the checksum contribution of a framed byte: the start bit does not count (00_scope.md R12,
40_frame.md R100). -/
def popcount8 (v : Byte) : Nat := (dataBits v).count true

/-- `CKS <- (CKS + popcount8(v)) mod 65536` (40_frame.md R109). -/
def tally (v : Byte) (s : State) : State := { s with cks := s.cks + BitVec.ofNat 16 (popcount8 v) }

/-- Why a frame was not read, and the position of the symbol that was missing or wrong (40_frame.md R104). -/
structure FrameFailure where
  kind : Kind
  pos  : Nat
  deriving DecidableEq, Repr

/-- The data positions of a frame, from `pos` on, `n` of them left, built by shifting (40_frame.md R104, R109). -/
def readDataBits (s : State) (pos : Nat) : Nat → Byte → Except FrameFailure Byte
  | 0, v => .ok v
  | n + 1, v =>
    match symAt s pos with
    | none => .error ⟨.truncated, pos⟩
    | some b => if 1 < b then .error ⟨.badSymbol, pos⟩ else readDataBits s (pos + 1) n (v * 2 + b)

/-- `ReadFrame(base)` (40_frame.md R104). It changes no state. -/
def readFrame (s : State) (base : Nat) : Except FrameFailure Byte :=
  match symAt s base with
  | none => .error ⟨.truncated, base⟩
  | some b => if b = 1 then readDataBits s (base + 1) 8 0 else .error ⟨.startBitMissing, base⟩

/-- Raises a frame's failure with its position (40_frame.md R105 to R107). -/
def raiseFrame (e : FrameFailure) (s : State) : State := raise e.kind (BitVec.ofNat 24 e.pos) s

/-- What one completed frame of `FRD` does (40_frame.md R105). -/
def takeByte (v : Byte) (s : State) : State :=
  tally v { s with data := v.setWidth 16, rbuf := s.rbuf ++ [v], idx := s.idx + 9 }

/-! ### The output stage -/

/-- A bit as a symbol (20_memory.md R51). -/
def bitSymbol (b : Bool) : Byte := if b then 1 else 0

/-- The pulse of a bit: long for 1, short for 0 (42_output.md R141). -/
def pulsePair (t : PulseTable) (b : Bool) : PulsePair := if b then t.long else t.short

/-- `Render(b, p)`: high-sample-count bytes of the LOW level, then low-sample-count bytes of the HIGH level. The names
cross, as the source has them (42_output.md R141, 90_conflicts.md C8). -/
def render (p : Params) (t : PulseTable) (b : Bool) : List Byte :=
  List.replicate (pulsePair t b).hi.toNat p.lvlLow ++ List.replicate (pulsePair t b).lo.toNat p.lvlHigh

/-- `Emit(q)`: appends the bits to OBITS, or their rendering under the active pulse profile to SAMPLES (R140). -/
def emit (q : List Bool) (s : State) : State :=
  match s.ctrl.omode with
  | .bits => { s with obits := s.obits ++ q.map bitSymbol }
  | .pcm => { s with samples := s.samples ++ q.flatMap (render s.params (pulseTable s)) }

/-- The sync mark of the given lengths, with the one 1 bit that ends it (42_output.md R146). -/
def markPattern (m : MarkLengths) : List Bool :=
  List.replicate m.gap.toNat false ++ List.replicate m.markHi.toNat true ++
    List.replicate m.markLo.toNat false ++ [true]

/-- The repeat mark (42_output.md R147). -/
def repeatPattern (n : Count) : List Bool := true :: List.replicate n.toNat false

end Sys2Proof.Machine
end

