-- ==== Sys2Proof/Machine/FrameUnit.lean ====
section
/-! DEFINITION. The frame unit commands (40_frame.md R102, R103, R105 to R108). -/

namespace Sys2Proof.Machine

/-- `FWR v` (R102). -/
def execFwr (v : Byte) (s : State) : Host.Outcome State Fault Refusal := .next (ok 0 (tally v (emit (frame v) s)))

/-- `FWCK`: the checksum as two framed bytes, high byte first, neither tallied (R103). -/
def execFwck (s : State) : Host.Outcome State Fault Refusal :=
  .next (ok 0 (emit (frame (highByte s.cks) ++ frame (lowByte s.cks)) s))

/-- `FRD` (R105). -/
def execFrd (s : State) : Host.Outcome State Fault Refusal :=
  match readFrame s s.idx.toNat with
  | .error e => .next (raiseFrame e s)
  | .ok v => .next (ok (v.setWidth 24) (takeByte v s))

/-- Reads up to `n` frames; stops at the first that fails, keeping those already read (R106). -/
def readFrames : Nat → State → State × Option FrameFailure
  | 0, s => (s, none)
  | n + 1, s =>
    match readFrame s s.idx.toNat with
    | .error e => (s, some e)
    | .ok v => readFrames n (takeByte v s)

/-- `FRDN n` (R106). -/
def execFrdn (n : Half) (s : State) : Host.Outcome State Fault Refusal :=
  match readFrames n.toNat s with
  | (t, some e) => .next (raiseFrame e t)
  | (t, none) => .next (ok (n.setWidth 24) t)

/-- The stored checksum in the two frames from `base` on, high byte first (R107, 20_memory.md R56). -/
def readStored (s : State) (base : Nat) : Except FrameFailure Half :=
  match readFrame s base with
  | .error e => .error e
  | .ok hi =>
    match readFrame s (base + 9) with
    | .error e => .error e
    | .ok lo => .ok (hi ++ lo)

/-- `FRCK`: IDX moves past both frames before the comparison; a mismatch is raised with their start (R107). -/
def execFrck (s : State) : Host.Outcome State Fault Refusal :=
  match readStored s s.idx.toNat with
  | .error e => .next (raiseFrame e s)
  | .ok stored =>
    if stored = s.cks then .next (ok (stored.setWidth 24) { s with data := stored, idx := s.idx + 18 })
    else .next (raise .checksumMismatch s.idx { s with data := stored, idx := s.idx + 18 })

/-- `CKCLR` (R108). -/
def execCkclr (s : State) : Host.Outcome State Fault Refusal := .next (ok 0 { s with cks := 0 })

end Sys2Proof.Machine
end

