-- ==== Sys2Proof/Machine/Output.lean ====
section
/-! DEFINITION. The output stage and pulse unit commands (42_output.md R142 to R147). None of them touches CKS. -/

namespace Sys2Proof.Machine

/-- `OMODE m`: nothing already appended is moved (R142). -/
def execOmode (m : OutMode) (s : State) : Host.Outcome State Fault Refusal :=
  .next (ok 0 { s with ctrl := { s.ctrl with omode := m } })

/-- `PSEL p` (R143). -/
def execPsel (p : PulseProfile) (s : State) : Host.Outcome State Fault Refusal :=
  .next (ok 0 { s with ctrl := { s.ctrl with psel := p } })

/-- `EMITB b` (R144). -/
def execEmitb (b : Bool) (s : State) : Host.Outcome State Fault Refusal := .next (ok 0 (emit [b] s))

/-- `GAP n` (R145). -/
def execGap (n : Count) (s : State) : Host.Outcome State Fault Refusal :=
  .next (ok 0 (emit (List.replicate n.toNat false) s))

/-- `MARK s` (R146). -/
def execMark (sec : Section) (s : State) : Host.Outcome State Fault Refusal :=
  .next (ok 0 (emit (markPattern (markLengths sec s)) s))

/-- `RPT` (R147). -/
def execRpt (s : State) : Host.Outcome State Fault Refusal := .next (ok 0 (emit (repeatPattern s.params.rptZeros) s))

end Sys2Proof.Machine
end

