-- ==== Sys2Proof/Machine/Scanner.lean ====
section
/-! DEFINITION. The scanner commands (41_scanner.md R120, R121, R123 to R125). -/

namespace Sys2Proof.Machine

/-- `SSEL s`: neither `STAT.SST` nor `RUN` changes (R120). -/
def execSsel (sec : Section) (s : State) : Host.Outcome State Fault Refusal :=
  .next (ok 0 { s with ctrl := { s.ctrl with ssel := sec } })

/-- The scan state after a scanner reset; IDX, EIDX and CTRL stay (R121). -/
def scannerReset (s : State) : State := setSst .seekingZeros { s with run := 0 }

/-- `SRST` (R121). -/
def execSrst (s : State) : Host.Outcome State Fault Refusal := .next (ok 0 (scannerReset s))

/-- `RUN <- RUN + 1`. At 2^24 - 1 the sum does not fit the register, and the spec states no result there (10_state.md
R23 takes it never to happen): RUN is then a free value (assumption 5). -/
def countUp (s : State) : State :=
  if s.run = BitVec.allOnes 24 then { s with run := Config.freeRun s.free, free := s.free + 1 }
  else { s with run := s.run + 1 }

/-- Enters `x`; the bit that ended the last run is the first of the next (R123). -/
def startRun (x : ScanState) (s : State) : State := setSst x { s with run := 1 }

/-- Enters `failed` and records the failing position; no error result (R123, 60_exceptions.md R204). -/
def scanFail (pos : Count) (s : State) : State := setSst .failed { s with eidx := pos }

/-- The transition on a symbol that is a bit, `pos` its index (R123). In `found` and `failed` nothing happens. -/
def scanBit (b : Bool) (pos : Count) (s : State) : State :=
  match s.stat.sst, b with
  | .seekingZeros, false => countUp s
  | .seekingZeros, true => if (scanProfile s).minZ ≤ s.run then startRun .countingHighMarker s else scanFail pos s
  | .countingHighMarker, true => countUp s
  | .countingHighMarker, false => if s.run = (scanProfile s).hRun then startRun .countingLowMarker s else scanFail pos s
  | .countingLowMarker, false => countUp s
  | .countingLowMarker, true => if s.run = (scanProfile s).lRun then setSst .found s else scanFail pos s
  | .found, _ => s
  | .failed, _ => s

/-- One transition on the symbol `b` at IDX: the symbol is consumed, and one that is no bit is a hard `failed` (R123). -/
def scanSymbol (b : Byte) (s : State) : State :=
  if 1 < b then scanFail s.idx { s with idx := s.idx + 1 }
  else scanBit (b == 1) s.idx { s with idx := s.idx + 1 }

/-- The state's number as a result value (R123). -/
def sstValue (s : State) : Count := s.stat.sst.number.setWidth 24

/-- `SSTEP` (R123). -/
def execSstep (s : State) : Host.Outcome State Fault Refusal :=
  if s.stat.sst = .found ∨ s.stat.sst = .failed then .next (ok (sstValue s) s)
  else
    match symAt s s.idx.toNat with
    | none => .next (raise .endOfInput s.idx s)
    | some b => .next (ok (sstValue (scanSymbol b s)) (scanSymbol b s))

/-- After `failed` the scan state is reset and IDX stays one past the failure point (R124, R127). -/
def restart (s : State) : State := if s.stat.sst = .failed then scannerReset s else s

/-- The loop of `SCAN`, with at least as much fuel as there are symbols left; each turn consumes one (R124). -/
def scanLoop : Nat → State → State
  | 0, s => if s.stat.sst = .found then ok s.idx s else raise .tapeMarkNotFound s.idx (restart s)
  | n + 1, s =>
    if s.stat.sst = .found then ok s.idx s
    else
      match symAt s s.idx.toNat with
      | none => raise .tapeMarkNotFound s.idx (restart s)
      | some b => scanLoop n (scanSymbol b (restart s))

/-- `SCAN` (R124). -/
def execScan (s : State) : Host.Outcome State Fault Refusal :=
  .next (scanLoop (s.len.toNat - s.idx.toNat) (scannerReset s))

/-- The first of the `n` positions from `pos` on that does not hold a 0 (LEN if the input ends first), or `none`
(R125). -/
def zeroRunFault (s : State) : Nat → Nat → Option Nat
  | _, 0 => none
  | pos, n + 1 =>
    match symAt s pos with
    | none => some s.len.toNat
    | some b => if b = 0 then zeroRunFault s (pos + 1) n else some pos

/-- Where the symbols at `pos` depart from a 1 and exactly `n` zeros, with one symbol of look-ahead (R125). -/
def repeatMarkFault (s : State) (pos n : Nat) : Option Nat :=
  match symAt s pos with
  | none => some s.len.toNat
  | some b =>
    if b = 1 then
      match zeroRunFault s (pos + 1) n with
      | some e => some e
      | none => if symAt s (pos + n + 1) = some 0 then some (pos + n + 1) else none
    else some pos

/-- `RMARK` (R125). -/
def execRmark (s : State) : Host.Outcome State Fault Refusal :=
  match repeatMarkFault s s.idx.toNat s.params.rptZeros.toNat with
  | some e => .next (raise .repeatMarkNotFound (BitVec.ofNat 24 e) s)
  | none => .next (ok 0 { s with idx := s.idx + s.params.rptZeros + 1 })

end Sys2Proof.Machine
end

