-- ==== Sys2Proof/Machine/System.lean ====
section
/-! DEFINITION. The system commands (43_system.md R160 to R163). A set fault bit refuses a command before its meaning
is reached (30_encoding.md R86, Machine/Issue.lean). -/

namespace Sys2Proof.Machine

/-- `NOP` (R160). -/
def execNop (s : State) : Host.Outcome State Fault Refusal := .next (ok 0 s)

/-- `RST` (R161). -/
def execRst (s : State) : Host.Outcome State Fault Refusal := .next (ok 0 (softReset s))

/-- `GETR r` (R162). -/
def execGetr (r : Reg) (s : State) : Host.Outcome State Fault Refusal := .next (ok (readReg r s) s)

/-- `SETIDX n` (R163). -/
def execSetidx (n : Count) (s : State) : Host.Outcome State Fault Refusal := .next (ok 0 { s with idx := n })

end Sys2Proof.Machine
end

