-- ==== Sys2Proof/Machine/Dispatch.lean ====
section
/-! DEFINITION. The meaning of each command, one arm per constructor (30_encoding.md R83): what an ACCEPTED command
does. Whether a word is accepted is decided before (30_encoding.md R86, Machine/Issue.lean). -/

namespace Sys2Proof.Machine

def exec (i : Instr) (s : State) : Host.Outcome State Fault Refusal :=
  match i with
  | .nop => Sys2Proof.Machine.execNop s
  | .rst => Sys2Proof.Machine.execRst s
  | .getr r => Sys2Proof.Machine.execGetr r s
  | .setidx n => Sys2Proof.Machine.execSetidx n s
  | .fwr v => Sys2Proof.Machine.execFwr v s
  | .fwck => Sys2Proof.Machine.execFwck s
  | .frd => Sys2Proof.Machine.execFrd s
  | .frdn n => Sys2Proof.Machine.execFrdn n s
  | .frck => Sys2Proof.Machine.execFrck s
  | .ckclr => Sys2Proof.Machine.execCkclr s
  | .ssel sec => Sys2Proof.Machine.execSsel sec s
  | .srst => Sys2Proof.Machine.execSrst s
  | .sstep => Sys2Proof.Machine.execSstep s
  | .scan => Sys2Proof.Machine.execScan s
  | .rmark => Sys2Proof.Machine.execRmark s
  | .omode m => Sys2Proof.Machine.execOmode m s
  | .psel p => Sys2Proof.Machine.execPsel p s
  | .emitb b => Sys2Proof.Machine.execEmitb b s
  | .gap n => Sys2Proof.Machine.execGap n s
  | .mark sec => Sys2Proof.Machine.execMark sec s
  | .rpt => Sys2Proof.Machine.execRpt s

end Sys2Proof.Machine
end

