-- ==== Sys2Proof/Machine/Issue.lean ====
section
/-! DEFINITION. Taking one host action (00_scope.md R10, R11): the decode procedure of a command word (30_encoding.md
R86), a binding of the input (10_state.md R33), a power-on reset (70_reset_and_hazards.md R230). -/

namespace Sys2Proof.Machine

/-- The decode procedure (30_encoding.md R86): the fault bit is tested first (60_exceptions.md R206, R207), then the
encoding (R205), then the command is executed. -/
def issueWord (w : Word) (s : State) : Host.Outcome State Fault Refusal :=
  if s.stat.flt = true ∧ w ≠ rstWord then .next (raise .illegalCommand 0 s)
  else
    match decode w with
    | .ok i => exec i s
    | .error _ => .next (raise .illegalCommand 0 s)

/-- What one host action does to the block. A binding longer than 2^24 - 1 symbols has no meaning (10_state.md R33,
assumption 6). -/
def hostAction (e : HostEvent) (s : State) : Host.Outcome State Fault Refusal :=
  match e with
  | .command w => issueWord w s
  | .bind q => if bindable q then .next (bindInput q s) else .fault .inputTooLong
  | .powerOn => .next (powerOnReset s)

/-- The next host action is taken from the inbox; with none pending the block waits (70_reset_and_hazards.md R230,
R245). -/
def serveNext (s : State) : Host.Outcome State Fault Refusal :=
  match s.inbox with
  | [] => .next s
  | e :: rest => hostAction e { s with inbox := rest }

/-- The host issues `w` next. -/
def issueNext (w : Word) (s : State) : State := { s with inbox := .command w :: s.inbox }

end Sys2Proof.Machine
end

