-- ==== Sys2Proof/Machine/Step.lean ====
section
/-! DEFINITION. One step: the block takes the host's next action (00_scope.md R10). There is no program counter and no
instruction memory (10_state.md R28): a command is fetched from the head of `inbox` (assumption 2). -/

namespace Sys2Proof.Machine

/-- One atomic step (00_scope.md R10). -/
def step (s : State) : Host.Outcome State Fault Refusal := serveNext s

/-- The state with the command word of the `nbits` low bits of `w` issued as the host's next action. -/
def State.withFetchWord (s : State) (nbits w : Nat) : State := issueNext (BitVec.ofNat 32 (w % 2 ^ nbits)) s

end Sys2Proof.Machine
end

