-- ==== Sys2Proof/Machine/Pseudo.lean ====
section
/-! DEFINITION. Sequences of commands as the host issues them: a sequence stops at the first result that is not `OK`
(30_encoding.md R88), and the pseudo-instructions with their expansions (R88). Host software, not part of `step`. -/

namespace Sys2Proof.Machine

/-- The latest result word (00_scope.md R10). Before the first command it reads 0. -/
def lastResult (s : State) : Word := s.results.getLast?.getD 0

/-- The latest command answered `OK` (30_encoding.md R82). -/
def lastOk (s : State) : Bool := resultCode (lastResult s) == 0

/-- Issues the commands one after another and stops after the first whose result is not `OK` (R88). -/
def issueAll : List Instr → State → Host.Outcome State Fault Refusal
  | [], s => .next s
  | i :: is, s =>
    match issueWord (encode i) s with
    | .next t => if lastOk t then issueAll is t else .next t
    | .fault r => .fault r
    | .refused r => .refused r

/-- The pseudo-instructions (R88). -/
inductive Pseudo where
  | sync (sec : Section)
  | recrd (n : Half)
  | hdrrd
  | recwr (bytes : List Byte)
  | renderbit (b : Bool)
  deriving DecidableEq, Repr

/-- `CKCLR ; FRDN n ; FRCK` (R88). -/
def readRecordProgram (n : Half) : List Instr := [.ckclr, .frdn n, .frck]

/-- `CKCLR ; FWR b0 ; ... ; FWR bn-1 ; FWCK` (R88, 44_record_layer.md R179). -/
def writeRecordProgram (bytes : List Byte) : List Instr := .ckclr :: (bytes.map .fwr ++ [.fwck])

/-- The expansion of a pseudo-instruction (R88). -/
def expandPseudo : Pseudo → List Instr
  | .sync sec => [.ssel sec, .scan]
  | .recrd n => readRecordProgram n
  | .hdrrd => readRecordProgram 128
  | .recwr bytes => writeRecordProgram bytes
  | .renderbit b => [.emitb b]

end Sys2Proof.Machine
end

