-- ==== Sys2Proof/Machine/Assembler.lean ====
section
/-! DEFINITION. The assembler syntax (30_encoding.md R87): one command per line, the mnemonic in capitals, one space and
the operand, text after `;` is a comment; symbolic operands stand for their numbers. The pseudo-instructions of R88 may
be written too. Host software. Lines are lists of characters, so that Lean's kernel can evaluate the parser. -/

namespace Sys2Proof.Machine

/-- The value of a hexadecimal digit. -/
def digitValue (c : Char) : Option Nat :=
  if '0' ≤ c ∧ c ≤ '9' then some (c.toNat - 48)
  else if 'A' ≤ c ∧ c ≤ 'F' then some (c.toNat - 55)
  else if 'a' ≤ c ∧ c ≤ 'f' then some (c.toNat - 87)
  else none

/-- Digits in base `b`, most significant first, onto the value so far. -/
def digitsValue (b : Nat) : List Char → Nat → Option Nat
  | [], v => some v
  | c :: cs, v =>
    match digitValue c with
    | none => none
    | some d => if d < b then digitsValue b cs (v * b + d) else none

/-- The symbolic operands and the register names, with their numbers (R87, 10_state.md R20). -/
def symbolTable : List (List Char × Nat) :=
  [(['H', 'D', 'R'], 0), (['P', 'A', 'Y'], 1), (['R', 'E', 'G'], 0), (['F', 'A', 'S', 'T'], 1),
   (['B', 'I', 'T', 'S'], 0), (['P', 'C', 'M'], 1), (['C', 'T', 'R', 'L'], 0), (['S', 'T', 'A', 'T'], 1),
   (['C', 'K', 'S'], 2), (['I', 'D', 'X'], 3), (['R', 'U', 'N'], 4), (['D', 'A', 'T', 'A'], 5),
   (['E', 'I', 'D', 'X'], 6), (['L', 'E', 'N'], 7)]

/-- An operand: a hexadecimal number, a decimal number or a symbol (R87). -/
def operandValue (cs : List Char) : Option Nat :=
  match cs with
  | [] => none
  | '0' :: 'x' :: c :: rest => digitsValue 16 (c :: rest) 0
  | c :: rest =>
    match digitsValue 10 (c :: rest) 0 with
    | some v => some v
    | none => (symbolTable.find? fun e => e.1 == c :: rest).map Prod.snd

/-- The text before a comment (R87). -/
def dropComment : List Char → List Char
  | [] => []
  | c :: cs => if c = ';' then [] else c :: dropComment cs

/-- The text without the spaces before its comment or its end. -/
def dropTrailingSpaces (cs : List Char) : List Char := (cs.reverse.dropWhile (· == ' ')).reverse

/-- The words of a line, one space between two words. -/
def lineWords : List Char → List (List Char)
  | [] => [[]]
  | c :: cs =>
    match lineWords cs with
    | [] => [[c]]
    | w :: ws => if c = ' ' then [] :: w :: ws else (c :: w) :: ws

/-- A number as a `w`-bit operand, if it fits (R81). -/
def operandBits (w n : Nat) : Option (BitVec w) := if n < 2 ^ w then some (BitVec.ofNat w n) else none

/-- Every number as a byte, if all fit. -/
def operandBytes : List Nat → Option (List Byte)
  | [] => some []
  | n :: ns =>
    match operandBits 8 n, operandBytes ns with
    | some b, some bs => some (b :: bs)
    | _, _ => none

/-- Every word's operand value. -/
def operandValues : List (List Char) → Option (List Nat)
  | [] => some []
  | w :: ws =>
    match operandValue w, operandValues ws with
    | some n, some ns => some (n :: ns)
    | _, _ => none

/-- A command with one `w`-bit operand. -/
def oneOperand (w : Nat) (ns : List Nat) (f : BitVec w → List Instr) : Option (List Instr) :=
  match ns with
  | [n] => (operandBits w n).map f
  | _ => none

/-- A command with no operand. -/
def bareCommand (ns : List Nat) (is : List Instr) : Option (List Instr) := if ns = [] then some is else none

/-- The commands of the system family and the frame unit, by mnemonic (30_encoding.md R83). -/
def assembleLow (m : List Char) (ns : List Nat) : Option (List Instr) :=
  if m = ['N', 'O', 'P'] then bareCommand ns [.nop]
  else if m = ['R', 'S', 'T'] then bareCommand ns [.rst]
  else if m = ['G', 'E', 'T', 'R'] then oneOperand 3 ns fun r => [.getr (regOf r)]
  else if m = ['S', 'E', 'T', 'I', 'D', 'X'] then oneOperand 24 ns fun n => [.setidx n]
  else if m = ['F', 'W', 'R'] then oneOperand 8 ns fun v => [.fwr v]
  else if m = ['F', 'W', 'C', 'K'] then bareCommand ns [.fwck]
  else if m = ['F', 'R', 'D'] then bareCommand ns [.frd]
  else if m = ['F', 'R', 'D', 'N'] then oneOperand 16 ns fun n => [.frdn n]
  else if m = ['F', 'R', 'C', 'K'] then bareCommand ns [.frck]
  else if m = ['C', 'K', 'C', 'L', 'R'] then bareCommand ns [.ckclr]
  else none

/-- The commands of the scanner and of the output unit, by mnemonic (30_encoding.md R83). -/
def assembleHigh (m : List Char) (ns : List Nat) : Option (List Instr) :=
  if m = ['S', 'S', 'E', 'L'] then oneOperand 1 ns fun b => [.ssel (sectionOf b)]
  else if m = ['S', 'R', 'S', 'T'] then bareCommand ns [.srst]
  else if m = ['S', 'S', 'T', 'E', 'P'] then bareCommand ns [.sstep]
  else if m = ['S', 'C', 'A', 'N'] then bareCommand ns [.scan]
  else if m = ['R', 'M', 'A', 'R', 'K'] then bareCommand ns [.rmark]
  else if m = ['O', 'M', 'O', 'D', 'E'] then oneOperand 1 ns fun b => [.omode (outModeOf b)]
  else if m = ['P', 'S', 'E', 'L'] then oneOperand 1 ns fun b => [.psel (profileOf b)]
  else if m = ['E', 'M', 'I', 'T', 'B'] then oneOperand 1 ns fun b => [.emitb (b = 1)]
  else if m = ['G', 'A', 'P'] then oneOperand 24 ns fun n => [.gap n]
  else if m = ['M', 'A', 'R', 'K'] then oneOperand 1 ns fun b => [.mark (sectionOf b)]
  else if m = ['R', 'P', 'T'] then bareCommand ns [.rpt]
  else none

/-- The pseudo-instructions, by name (30_encoding.md R88). -/
def assemblePseudo (m : List Char) (ns : List Nat) : Option (List Instr) :=
  if m = ['S', 'Y', 'N', 'C'] then oneOperand 1 ns fun b => expandPseudo (.sync (sectionOf b))
  else if m = ['R', 'E', 'C', 'R', 'D'] then oneOperand 16 ns fun n => expandPseudo (.recrd n)
  else if m = ['H', 'D', 'R', 'R', 'D'] then bareCommand ns (expandPseudo .hdrrd)
  else if m = ['R', 'E', 'C', 'W', 'R'] then (operandBytes ns).map fun bs => expandPseudo (.recwr bs)
  else if m = ['R', 'E', 'N', 'D', 'E', 'R', 'B', 'I', 'T'] then oneOperand 1 ns fun b => expandPseudo (.renderbit (b = 1))
  else none

/-- The commands one line stands for: none for an empty line; `none` if the line is not in the syntax (R87). -/
def assembleLine (line : List Char) : Option (List Instr) :=
  match dropTrailingSpaces (dropComment line) with
  | [] => some []
  | c :: cs =>
    match lineWords (c :: cs) with
    | [] => none
    | m :: ws =>
      match operandValues ws with
      | none => none
      | some ns => (assembleLow m ns).or ((assembleHigh m ns).or (assemblePseudo m ns))

end Sys2Proof.Machine
end

