-- ==== Sys2Proof/Machine/RecordLayer.lean ====
section
/-! DEFINITION. The host's record layer (44_record_layer.md R170 to R185, R188): the header record, the payload record,
the recording, and the host's encode and decode programs over the commands. Host software, not part of `step`. -/

namespace Sys2Proof.Machine

/-- Where in a decode a failure arose (R181, R185: "identifying which stage failed"): a mark, a record, the repeat mark
behind it, or the record's copy. -/
inductive Stage where
  | mark (sec : Section)
  | record (sec : Section)
  | repeatMark (sec : Section)
  | copy (sec : Section)
  deriving DecidableEq, Repr

/-- How a host operation fails, with the failing result words: the kind and the bit index are in them (R185,
60_exceptions.md R203). `sizeMismatch` and `encodingError` are names the source gives without conditions: nothing raises
them (assumption 10). `stopped` stands for a step that did not answer, which only a binding that is too long gives
(assumptions 6, 15). -/
inductive HostError where
  /-- A command's own failure: the stage and its result word. -/
  | block (stage : Stage) (r : Word)
  | nameTooLong
  /-- The header's copies: the `FRCK` failure of each, `none` for a copy that passed (R183). -/
  | headerMismatch (first second : Option Word)
  /-- The primary payload's checksum failure and the failure of its copy (R182). -/
  | payloadUnrecoverable (first second : Word)
  | sizeMismatch
  | encodingError
  | stopped
  deriving DecidableEq, Repr

/-- The bit index of a failure, "where applicable": the value of its last failing result word (R185). -/
def HostError.index : HostError → Option Count
  | .block _ r => some (resultValue r)
  | .headerMismatch first second => (second.or first).map resultValue
  | .payloadUnrecoverable _ second => some (resultValue second)
  | .nameTooLong => none
  | .sizeMismatch => none
  | .encodingError => none
  | .stopped => none

/-! ### Header -/

/-- The header record (R171). `nameField` is the 17-byte field, kept verbatim (R176). -/
structure Header where
  attr       : Byte
  nameField  : List Byte
  fileLength : Half
  loadAddr   : Half
  startAddr  : Half
  comment    : List Byte
  deriving DecidableEq, Repr

/-- The fields have the lengths of the 128-byte layout (R171). -/
def Header.wf (h : Header) : Bool := h.nameField.length == 17 && h.comment.length == 104

/-- A 16-bit field as two bytes, in the order `HDR16_ORDER` gives (R171, 20_memory.md R57). -/
def fieldBytes (o : ByteOrder) (v : Half) : List Byte :=
  match o with
  | .little => [lowByte v, highByte v]
  | .big => [highByte v, lowByte v]

/-- The 16-bit field two bytes hold (R171). -/
def fieldOf (o : ByteOrder) (a b : Byte) : Half :=
  match o with
  | .little => b ++ a
  | .big => a ++ b

/-- The 128-byte buffer: attribute, name, length, loading address, start address, comment (R171). -/
def headerBytes (o : ByteOrder) (h : Header) : List Byte :=
  h.attr :: (h.nameField ++ fieldBytes o h.fileLength ++ fieldBytes o h.loadAddr ++ fieldBytes o h.startAddr ++ h.comment)

/-- The header a 128-byte buffer holds (R171, R177). -/
def headerOf (o : ByteOrder) (h : List Byte) : Option Header :=
  if h.length = 128 then
    some
      { attr := h.getD 0 0
        nameField := (h.drop 1).take 17
        fileLength := fieldOf o (h.getD 18 0) (h.getD 19 0)
        loadAddr := fieldOf o (h.getD 20 0) (h.getD 21 0)
        startAddr := fieldOf o (h.getD 22 0) (h.getD 23 0)
        comment := h.drop 24 }
  else none

/-- `HeaderCodec.encode` on an already translated name: at most 16 characters, the terminator, zeros up to 17; the
comment zero-filled (R175). The attribute byte is the caller's (91 N13, assumption 14). DESIGN CHOICE (assumption 19): a
name that itself holds the terminator is accepted as it stands, a case the spec leaves open (91 N14, 93 U13). -/
def encodeHeader (cr attr : Byte) (name : List Byte) (length load start : Half) : Except HostError Header :=
  if 16 < name.length then .error .nameTooLong
  else
    .ok
      { attr := attr
        nameField := name ++ cr :: List.replicate (16 - name.length) 0
        fileLength := length
        loadAddr := load
        startAddr := start
        comment := List.replicate 104 0 }

/-- The logical name: the bytes before the first terminator (R176), so a name that holds one reads back cut there
(assumption 19); with none in the field, a free value (assumption 8). -/
def logicalName (cr : Byte) (h : Header) : List Byte :=
  if cr ∈ h.nameField then h.nameField.takeWhile (· != cr) else Config.freeName h.nameField

/-- The additive checksum of a record's bytes, modulo 65536 (R172, R173, 40_frame.md R110). -/
def recordChecksum (bytes : List Byte) : Half := BitVec.ofNat 16 ((bytes.map popcount8).sum)

/-- A recording: one header and one payload (R174). -/
structure Recording where
  header  : Header
  payload : List Byte
  deriving DecidableEq, Repr

/-! ### Encode -/

/-- A record, and its copy behind a repeat mark for the profile that keeps duplicates (R178). -/
def copiesProgram (p : PulseProfile) (bytes : List Byte) : List Instr :=
  match p with
  | .regular => writeRecordProgram bytes ++ .rpt :: writeRecordProgram bytes
  | .fast => writeRecordProgram bytes

/-- The host's encode program (R178). -/
def encodeProgram (m : OutMode) (p : PulseProfile) (h b : List Byte) : List Instr :=
  [.rst, .omode m, .psel p, .mark .header] ++ copiesProgram p h ++ .mark .payload :: copiesProgram p b

/-- Bits of the sync mark of a section (R180, 20_memory.md R60). -/
def markBits (t : Params) (p : PulseProfile) (sec : Section) : Nat :=
  let m := (t.pulse.get p).marks.get sec
  m.gap.toNat + m.markHi.toNat + m.markLo.toNat + 1

/-- Bits of a record of `n` bytes and its two checksum bytes (R176, R179). -/
def recordBits (n : Nat) : Nat := (n + 2) * 9

/-- Bits of a recording with `n` payload bytes (R180). -/
def recordingBits (t : Params) (p : PulseProfile) (n : Nat) : Nat :=
  match p with
  | .fast => markBits t p .header + recordBits 128 + markBits t p .payload + recordBits n
  | .regular =>
    markBits t p .header + 2 * recordBits 128 + markBits t p .payload + 2 * recordBits n + 2 * (t.rptZeros.toNat + 1)

/-! ### Decode -/

/-- Issues the commands of one stage; a result that is not `OK` ends the decode with it (R181: "fatal"). -/
def sendAll (stage : Stage) (is : List Instr) (s : State) : Except HostError State :=
  match issueAll is s with
  | .next t => if lastOk t then .ok t else .error (.block stage (lastResult t))
  | .fault _ => .error .stopped
  | .refused _ => .error .stopped

/-- One copy of a record as it was read: its bytes, the stored checksum, and the result word of a failed comparison,
`none` where the checksum matched (R176, R179, R181). -/
structure RecordCopy where
  bytes    : List Byte
  stored   : Half
  mismatch : Option Word
  deriving DecidableEq, Repr

/-- The copy read since RBUF was `before`, with DATA as the stored checksum (R176). -/
def copyRead (before : List Byte) (u : State) (mismatch : Option Word) : RecordCopy :=
  ⟨u.rbuf.drop before.length, u.data, mismatch⟩

/-- Reads a record of `n` bytes at IDX. A failed checksum is recoverable, so the copy carries it; every other failure
ends the stage (R176, R179, R181, R182). -/
def readRecord (stage : Stage) (n : Half) (s : State) : Except HostError (RecordCopy × State) :=
  match sendAll stage [.ckclr, .frdn n] s with
  | .error e => .error e
  | .ok t =>
    match issueWord (encode .frck) t with
    | .next u =>
      if lastOk u then .ok (copyRead s.rbuf u none, u)
      else if resultCode (lastResult u) = Kind.checksumMismatch.code then
        .ok (copyRead s.rbuf u (some (lastResult u)), u)
      else .error (.block stage (lastResult u))
    | .fault _ => .error .stopped
    | .refused _ => .error .stopped

/-- Reads a record of `n` bytes at an index: `SETIDX index ; CKCLR ; FRDN n ; FRCK` (R176, R179). -/
def readRecordAt (stage : Stage) (index : Count) (n : Half) (s : State) : Except HostError (RecordCopy × State) :=
  match sendAll stage [.setidx index] s with
  | .error e => .error e
  | .ok t => readRecord stage n t

/-- Binds a bit sequence as the host's next action (10_state.md R33). -/
def bindBits (bits : List Byte) (s : State) : Except HostError State :=
  match hostAction (.bind bits) s with
  | .next t => .ok t
  | .fault _ => .error .stopped
  | .refused _ => .error .stopped

/-- The header in 128 recovered bytes. -/
def headerRead (o : ByteOrder) (bytes : List Byte) : Except HostError Header :=
  match headerOf o bytes with
  | some h => .ok h
  | none => .error .stopped

/-- `HeaderCodec.decodeFromBits(bits, index)`: the header record at an index of a bit sequence. A checksum mismatch is
not fatal to the caller and stands in the copy (R176). -/
def decodeHeaderFromBits (bits : List Byte) (index : Count) (s : State) :
    Except HostError (Header × RecordCopy × State) := do
  let s1 ← bindBits bits s
  let (c, s2) ← readRecordAt (.record .header) index 128 s1
  let h ← headerRead s.params.hdr16 c.bytes
  return (h, c, s2)

/-- `PayloadCodec.decodeFromBits(bits, index, length)`: the payload record at an index of a bit sequence. A checksum
mismatch is recoverable by the caller and stands in the copy (R179). -/
def decodePayloadFromBits (bits : List Byte) (index : Count) (length : Half) (s : State) :
    Except HostError (RecordCopy × State) := do
  let s1 ← bindBits bits s
  readRecordAt (.record .payload) index length s1

/-- The choice of the header from its two copies (R183, 90_conflicts.md C3). -/
def chooseHeader (c1 c2 : RecordCopy) : Except HostError (List Byte) :=
  match c1.mismatch, c2.mismatch with
  | none, none =>
    if c1.bytes = c2.bytes ∧ c1.stored = c2.stored then .ok c1.bytes else .error (.headerMismatch none none)
  | none, some _ => .ok c1.bytes
  | some _, none => .ok c2.bytes
  | some r1, some r2 => .error (.headerMismatch (some r1) (some r2))

/-- The end of step 6, after the primary payload's checksum failed with `r1`: the copy, or its failure of any kind
beside `r1` (R181, R182). -/
def payloadFromCopy (r1 : Word) (copy : Except HostError (RecordCopy × State)) : Except HostError (List Byte × State) :=
  match copy with
  | .ok (c2, s3) =>
    match c2.mismatch with
    | none => .ok (c2.bytes, s3)
    | some r2 => .error (.payloadUnrecoverable r1 r2)
  | .error (.block _ r2) => .error (.payloadUnrecoverable r1 r2)
  | .error e => .error e

/-- Steps 5 to 7: the payload, with the one fallback to its copy after a failed checksum (R181, R182). -/
def readPayload (n : Half) (s : State) : Except HostError (List Byte × State) := do
  let (c1, s1) ← readRecord (.record .payload) n s
  match c1.mismatch with
  | none => .ok (c1.bytes, s1)
  | some r1 =>
    let s2 ← sendAll (.repeatMark .payload) [.rmark] s1
    payloadFromCopy r1 (readRecord (.copy .payload) n s2)

/-- The decode program of the regular profile (R181 to R183). -/
def decodeRegular (s : State) : Except HostError (Recording × State) := do
  let s1 ← sendAll (.mark .header) [.rst, .ssel .header, .scan] s
  let (c1, s2) ← readRecord (.record .header) 128 s1
  let s3 ← sendAll (.repeatMark .header) [.rmark] s2
  let (c2, s4) ← readRecord (.copy .header) 128 s3
  let bytes ← chooseHeader c1 c2
  let h ← headerRead s.params.hdr16 bytes
  let s5 ← sendAll (.mark .payload) [.ssel .payload, .scan] s4
  let (b, s6) ← readPayload h.fileLength s5
  return (⟨h, b⟩, s6)

/-- A record with no copy to fall back on: a failed checksum is final (R184). -/
def readOnly (sec : Section) (n : Half) (s : State) : Except HostError (List Byte × State) :=
  match readRecord (.record sec) n s with
  | .error e => .error e
  | .ok (c, t) =>
    match c.mismatch with
    | none => .ok (c.bytes, t)
    | some r => .error (.block (.record sec) r)

/-- The decode program of the fast profile (R184, 90_conflicts.md C4). -/
def decodeFast (s : State) : Except HostError (Recording × State) := do
  let s1 ← sendAll (.mark .header) [.rst, .ssel .header, .scan] s
  let (bytes, s2) ← readOnly .header 128 s1
  let h ← headerRead s.params.hdr16 bytes
  let s3 ← sendAll (.mark .payload) [.ssel .payload, .scan] s2
  let (b, s4) ← readOnly .payload h.fileLength s3
  return (⟨h, b⟩, s4)

/-- The decode of a bound recording with the given profile (R181, R184). -/
def decodeRecording (p : PulseProfile) (s : State) : Except HostError (Recording × State) :=
  match p with
  | .regular => decodeRegular s
  | .fast => decodeFast s

end Sys2Proof.Machine
end

