-- ==== Sys2Proof/Machine/Containers.lean ====
section
/-! DEFINITION. The two containers, as far as the source fixes them (44_record_layer.md R177, R186, R187). Host
software that uses no command of the block. -/

namespace Sys2Proof.Machine

/-- The two readings of the audio container's "fmt " part: with the 4-byte sub-chunk size a standard WAVE file has, or
without it as the source's list reads (90_conflicts.md C12). -/
inductive FmtReading where
  | standard
  | listed
  deriving DecidableEq, Repr

/-- The value of a 4-byte size field. DESIGN CHOICE (assumption 18): streams are unbounded (20_memory.md R54), and the
spec states no value for a size of 2^32 or more, which does not fit the field; it is then free. -/
def sizeField (n : Nat) : BitVec 32 := if n < 2 ^ 32 then BitVec.ofNat 32 n else Config.freeSize n

/-- A 32-bit little-endian field (20_memory.md R57, R186). -/
def u32le (n : Nat) : List Byte :=
  [(sizeField n).extractLsb' 0 8, (sizeField n).extractLsb' 8 8, (sizeField n).extractLsb' 16 8,
   (sizeField n).extractLsb' 24 8]

/-- A 16-bit little-endian field. -/
def u16le (n : Nat) : List Byte := [BitVec.ofNat 8 n, BitVec.ofNat 8 (n / 256)]

/-- The 16 bytes of the format sub-chunk: PCM, mono, the sample rate, 8 bits per sample (R186). Their layout is general
knowledge (93 G7, assumption 9). -/
def fmtBytes (rate : Count) : List Byte :=
  u16le 1 ++ u16le 1 ++ u32le rate.toNat ++ u32le rate.toNat ++ u16le 1 ++ u16le 8

/-- The "fmt " part under a reading (R186, C12). -/
def fmtPart (r : FmtReading) (rate : Count) : List Byte :=
  [0x66, 0x6D, 0x74, 0x20] ++
    match r with
    | .standard => u32le 16 ++ fmtBytes rate
    | .listed => fmtBytes rate

/-- What follows the total size: "WAVE", the "fmt " part, "data", the count and the samples (R186). -/
def audioBody (r : FmtReading) (rate : Count) (samples : List Byte) : List Byte :=
  [0x57, 0x41, 0x56, 0x45] ++ fmtPart r rate ++ [0x64, 0x61, 0x74, 0x61] ++ u32le samples.length ++ samples

/-- The audio container of a finished SAMPLES stream; the size field is the total size minus 8 (R186). -/
def audioContainer (r : FmtReading) (s : State) : List Byte :=
  [0x52, 0x49, 0x46, 0x46] ++ u32le (audioBody r s.params.sampleRate s.samples).length ++
    audioBody r s.params.sampleRate s.samples

/-- The tape-file container: the 128 header bytes, then the payload; no checksum is stored (R187). -/
def tapeFile (o : ByteOrder) (r : Recording) : List Byte := headerBytes o r.header ++ r.payload

/-- `HeaderCodec.decodeFromContainer`: the header fields, and no checksum (`none`: the container stores none, R177). -/
def headerFromContainer (o : ByteOrder) (bytes : List Byte) : Option (Header × Option Half) :=
  (headerOf o (bytes.take 128)).map fun h => (h, none)

/-- The recording in a tape-file container; `none` where the bytes do not fit the layout (R187). The source names no
condition for an error there (assumption 10). -/
def recordingFromContainer (o : ByteOrder) (bytes : List Byte) : Option Recording :=
  match headerFromContainer o bytes with
  | none => none
  | some (h, _) =>
    if (bytes.drop 128).length = h.fileLength.toNat then some ⟨h, bytes.drop 128⟩ else none

end Sys2Proof.Machine
end

