-- ==== Sys2Proof/Safety.lean ====
section
/-! DEFINITION. What counts as a safe run, the invariant of the machine, and the terms the claims use: result words,
emitted bits and scanner runs written from the spec's own formulas, apart from the operations of Machine/. -/

namespace Sys2Proof.Machine

/-- What every step keeps: BITS is in canonical form; OBITS holds bits only and SAMPLES the two levels only (20_memory.md
R50); a set fault bit means the last failure was `IllegalCommand` (60_exceptions.md R205, R206); every result word has
bits 27:24 zero and a code of at most 8 (30_encoding.md R82). -/
structure Inv (s : State) : Prop where
  cells   : Memory.wf s = true
  obits   : ∀ b ∈ s.obits, b = 0 ∨ b = 1
  samples : ∀ b ∈ s.samples, b = s.params.lvlLow ∨ b = s.params.lvlHigh
  fault   : s.stat.flt = true → s.stat.err = some .illegalCommand
  results : ∀ r ∈ s.results, r.extractLsb' 24 4 = 0 ∧ r.toNat / 2 ^ 28 ≤ 8

/-- A step that answers with a state. -/
def Answers (s : State) : Prop := ∃ t, step s = .next t

/-- The streams fit a physical buffer of the capacity `STREAM_CAP` (20_memory.md R54, 93 U10). -/
def withinCapacity (s : State) : Bool :=
  match s.params.streamCap with
  | none => true
  | some cap =>
    decide (s.obits.length ≤ cap.toNat) && decide (s.samples.length ≤ cap.toNat) && decide (s.rbuf.length ≤ cap.toNat)

end Sys2Proof.Machine

namespace Sys2Proof.Spec

open Sys2Proof.Machine

/-- The result word with this code and value (30_encoding.md R82). -/
def answer (code value : Nat) : Word := BitVec.ofNat 32 (code * 2 ^ 28 + value)

/-- The latest result word (00_scope.md R10). -/
def latest (s : State) : Word := s.results.getLast?.getD 0

/-- A result word with code `OK` (30_encoding.md R82). -/
def isOk (r : Word) : Bool := decide (r.toNat < 2 ^ 28)

/-- The result codes (60_exceptions.md R201). -/
def codeOf : Kind → Nat
  | .startBitMissing => 1
  | .truncated => 2
  | .checksumMismatch => 3
  | .tapeMarkNotFound => 4
  | .repeatMarkNotFound => 5
  | .badSymbol => 6
  | .illegalCommand => 7
  | .endOfInput => 8

/-- The scanner states' numbers (10_state.md R25). -/
def sstNumber : ScanState → Nat
  | .seekingZeros => 0
  | .countingHighMarker => 1
  | .countingLowMarker => 2
  | .found => 3
  | .failed => 4

/-- A register's value by its fields' positions (10_state.md R20, R24, R25). -/
def registerValue (r : Reg) (s : State) : Nat :=
  match r with
  | .ctrl =>
    (if s.ctrl.omode = .pcm then 1 else 0) + (if s.ctrl.psel = .fast then 2 else 0) +
      (if s.ctrl.ssel = .payload then 4 else 0)
  | .stat => sstNumber s.stat.sst + (if s.stat.flt then 8 else 0) + 16 * (s.stat.err.map codeOf).getD 0
  | .cks => s.cks.toNat
  | .idx => s.idx.toNat
  | .run => s.run.toNat
  | .data => s.data.toNat
  | .eidx => s.eidx.toNat
  | .len => s.len.toNat

/-- The state after a failure of kind `k` at `pos`, delivered and latched (60_exceptions.md R204). -/
def latched (k : Kind) (pos : Nat) (s : State) : State :=
  { s with
    stat := ⟨s.stat.sst, s.stat.flt, some k⟩, eidx := BitVec.ofNat 24 pos,
    results := s.results ++ [answer (codeOf k) pos] }

/-- The state after `IllegalCommand` (60_exceptions.md R205, R206). -/
def illegal (s : State) : State :=
  { s with stat := ⟨s.stat.sst, true, some .illegalCommand⟩, results := s.results ++ [0x70000000] }

/-- The symbol of a bit (20_memory.md R51). -/
def symbol (b : Bool) : Byte := if b then 0x01 else 0x00

/-- The input holds the bits `q` from `pos` on. -/
def Holds (s : State) (pos : Nat) (q : List Bool) : Prop :=
  ∀ (k : Nat) (h : k < q.length), symAt s (pos + k) = some (symbol q[k])

/-- The 9 bits of a framed byte (40_frame.md R101). -/
def frameBits (v : Byte) : List Bool := true :: (List.range 8).map fun k => v.getLsbD (7 - k)

/-- The number of 1 bits of a byte (00_scope.md R12). -/
def ones (v : Byte) : Nat := ((List.range 8).map fun k => (v.getLsbD k).toNat).sum

/-- The samples of one bit (42_output.md R141). -/
def bitSamples (t : Params) (p : PulseProfile) (b : Bool) : List Byte :=
  if b then
    List.replicate (t.pulse.get p).long.hi.toNat t.lvlLow ++ List.replicate (t.pulse.get p).long.lo.toNat t.lvlHigh
  else
    List.replicate (t.pulse.get p).short.hi.toNat t.lvlLow ++ List.replicate (t.pulse.get p).short.lo.toNat t.lvlHigh

/-- The state after the output stage took the bits `q` (42_output.md R140). -/
def emitted (q : List Bool) (s : State) : State :=
  if s.ctrl.omode = .bits then { s with obits := s.obits ++ q.map symbol }
  else { s with samples := s.samples ++ q.flatMap (bitSamples s.params s.ctrl.psel) }

/-- `return (OK, v)` (00_scope.md R15). -/
def returned (v : Nat) (s : State) : State := { s with results := s.results ++ [answer 0 v] }

/-- What position `k` of a frame fails with when its symbol is `x`, `none` past the end (40_frame.md R104). -/
def frameFault (k : Nat) (x : Option Byte) : Option Kind :=
  match x with
  | none => some .truncated
  | some b =>
    if k = 0 then (if b = 0x01 then none else some .startBitMissing)
    else if b.toNat ≤ 1 then none else some .badSymbol

/-- Executes accepted commands one after another, whatever their results. -/
def execAll : List Instr → State → Option State
  | [], s => some s
  | i :: is, s =>
    match exec i s with
    | .next t => execAll is t
    | _ => none

/-- `n` successive `FRD` commands stopped at the first failure, with that failure's result word (40_frame.md R106). -/
def frdTimes : Nat → State → State × Option Word
  | 0, s => (s, none)
  | n + 1, s =>
    match exec .frd s with
    | .next t => if isOk (latest t) then frdTimes n t else (t, some (latest t))
    | _ => (s, none)

/-- `n` successive `SSTEP` commands. -/
def sstepTimes : Nat → State → State
  | 0, s => s
  | n + 1, s =>
    match exec .sstep s with
    | .next t => sstepTimes n t
    | _ => s

/-- The host loop of 41_scanner.md R124, at most `n` turns, and whether it found the mark: `SSTEP`, and `SRST` after the
value 4, until the value 3 or an error result. -/
def hostScan : Nat → State → State × Bool
  | 0, s => (s, false)
  | n + 1, s =>
    match exec .sstep s with
    | .next t =>
      if latest t = answer 0 3 then (t, true)
      else if latest t = answer 0 4 then
        match exec .srst t with
        | .next u => hostScan n u
        | _ => (t, false)
      else if isOk (latest t) then hostScan n t
      else (t, false)
    | _ => (s, false)

/-- A sync mark: zeros, high marker bits, low marker bits and the 1 that ends it (41_scanner.md R122). -/
def syncMark (zeros high low : Nat) : List Bool :=
  List.replicate zeros false ++ List.replicate high true ++ List.replicate low false ++ [true]

/-- The rendering, command by command under the pulse profile in force, of the bits a sequence appends to OBITS
(42_output.md R148). -/
def renderedBits : List Instr → State → List Byte
  | [], _ => []
  | i :: is, s =>
    match exec i s with
    | .next t =>
      (t.obits.drop s.obits.length).flatMap (fun b => bitSamples s.params s.ctrl.psel (b == 0x01)) ++ renderedBits is t
    | _ => []

/-- The same state with the output stage in PCM mode. -/
def inPcm (s : State) : State := { s with ctrl := { s.ctrl with omode := .pcm } }

end Sys2Proof.Spec
end

