-- ==== Sys2Proof/Certificates/Slice0/Obligations.lean ====
section
/-! DEFINITION. The statements for the provers. A statement whose conclusion is `exec i s = .next { s with … }` gives the
instruction's result, says that it completes, and gives its frame: every field it does not name is unchanged, all of
BITS among them. -/

open Sys2Proof Sys2Proof.Machine Sys2Proof.Spec

/-! ### Encoding and decoding -/

/-- 30_encoding.md R80, R81, R83: no bit of an operand is dropped, for every command and every operand value. -/
def Obligations.EncodedCommandDecodesToItself : Prop :=
  ∀ i : Instr, decode (encode i) = .ok i

/-- 30_encoding.md R85: a legal word is the encoding of the command it decodes to, so each command has one word. -/
def Obligations.DecodedWordIsItsEncoding : Prop :=
  ∀ (w : Word) (i : Instr), decode w = .ok i → encode i = w

/-- 30_encoding.md R83: the decoder agrees with `match` and `mask` of every row; no two rows overlap; a word that matches
no row is illegal. -/
def Obligations.DecoderFollowsOpcodeMap : Prop :=
  (∀ r ∈ opcodeRows, ∀ w : Word, w &&& r.mask = r.pattern ↔ ∃ i, decode w = .ok i ∧ mnemonicOf i = r.mnemonic) ∧
  opcodeRows.Pairwise (fun r q => ∀ w : Word, ¬(w &&& r.mask = r.pattern ∧ w &&& q.mask = q.pattern)) ∧
  ∀ w : Word, (∀ r ∈ opcodeRows, w &&& r.mask ≠ r.pattern) → ∃ e, decode w = .error e

/-- 30_encoding.md R89, the worked encodings, bit for bit. -/
def Obligations.WorkedEncodingsDecode : Prop :=
  decode 0x100000A5 = .ok (.fwr 0xA5) ∧ decode 0x13000080 = .ok (.frdn 128) ∧ decode 0x330055F0 = .ok (.gap 22000) ∧
  decode 0x34000001 = .ok (.mark .payload) ∧ decode 0x0300000D = .ok (.setidx 13) ∧
  decode 0x02000006 = .ok (.getr .eidx) ∧ decode 0x10000100 = .error .immediate ∧
  decode 0x02000008 = .error .immediate ∧ decode 0x04000000 = .error .opcode

/-! ### The step -/

/-- 30_encoding.md R86: an accepted word that decodes to `i` makes the step `exec i`, the word taken from the host's
pending actions. A word issued by `withFetchWord` is the one taken. -/
def Obligations.StepRunsDecodedCommand : Prop :=
  (∀ (s : State) (w : Word) (rest : List HostEvent) (i : Instr),
    s.inbox = .command w :: rest → decode w = .ok i → (s.stat.flt = false ∨ i = .rst) →
      step s = exec i { s with inbox := rest }) ∧
  ∀ (s : State) (i : Instr), s.stat.flt = false → step (s.withFetchWord 32 (encode i).toNat) = exec i s

/-- 60_exceptions.md R205: an illegal word sets the fault bit and ERR, delivers (IllegalCommand, 0), and changes nothing
else. -/
def Obligations.IllegalWordSetsFaultBit : Prop :=
  ∀ (s : State) (w : Word) (rest : List HostEvent),
    s.inbox = .command w :: rest → s.stat.flt = false → (∀ r ∈ opcodeRows, w &&& r.mask ≠ r.pattern) →
      step s = .next (illegal { s with inbox := rest })

/-- 60_exceptions.md R206: while the fault bit is set every word but `RST` is refused, legal or not; `RST` executes and
clears it with the rest of STAT; power-on reset clears it; no other host action and no word does. -/
def Obligations.FaultBitRefusesAllButReset : Prop :=
  (∀ (s : State) (w : Word) (rest : List HostEvent),
    s.inbox = .command w :: rest → s.stat.flt = true → w ≠ 0x01000000 →
      step s = .next (illegal { s with inbox := rest })) ∧
  (∀ (s : State) (rest : List HostEvent), s.inbox = .command 0x01000000 :: rest →
      ∃ t, step s = .next t ∧ t.stat = ⟨.seekingZeros, false, none⟩) ∧
  (∀ (s : State) (rest : List HostEvent), s.inbox = .powerOn :: rest → ∃ t, step s = .next t ∧ t.stat.flt = false) ∧
  ∀ (s t : State), s.stat.flt = true → step s = .next t → (∀ rest, s.inbox ≠ .command 0x01000000 :: rest) →
    (∀ rest, s.inbox ≠ .powerOn :: rest) → t.stat.flt = true

/-- 10_state.md R33: a binding replaces BITS and LEN and changes no other state. A sequence longer than 2^24 - 1 has no
meaning: the model's stop of assumption 6. -/
def Obligations.BindingReplacesInput : Prop :=
  (∀ (s : State) (q : List Byte) (rest : List HostEvent), s.inbox = .bind q :: rest → q.length < 2 ^ 24 →
    ∃ t, step s = .next t ∧ t.len.toNat = q.length ∧ (∀ pos, symAt t pos = q[pos]?) ∧
      t = { s with inbox := rest, bits := t.bits, len := t.len }) ∧
  ∀ (s : State) (q : List Byte) (rest : List HostEvent), s.inbox = .bind q :: rest → 2 ^ 24 ≤ q.length →
    step s = .fault .inputTooLong

/-- 70_reset_and_hazards.md R230: power-on reset gives the reset state; what the host holds (pending actions, results)
and the constants stay, the model's choice of assumptions 1 to 3 and 5. With no action pending the block waits. -/
def Obligations.PowerOnAndWaiting : Prop :=
  (∀ (s : State) (rest : List HostEvent), s.inbox = .powerOn :: rest →
    step s = .next
      { State.reset with params := s.params, inbox := rest, results := s.results, free := s.free }) ∧
  ∀ s : State, s.inbox = [] → step s = .next s

/-- 70_reset_and_hazards.md R230, 10_state.md R35: the reset values; after reset the block waits for its first command.
That the waiting state is the reset state rests on the model's choice of assumption 2, the empty list of pending
actions. -/
def Obligations.ResetValues : Prop :=
  State.reset.ctrl = ⟨.bits, .regular, .header⟩ ∧ State.reset.stat = ⟨.seekingZeros, false, none⟩ ∧
  State.reset.cks = 0 ∧ State.reset.idx = 0 ∧ State.reset.run = 0 ∧ State.reset.data = 0 ∧ State.reset.eidx = 0 ∧
  State.reset.len = 0 ∧ (∀ pos, symAt State.reset pos = none) ∧ State.reset.obits = [] ∧
  State.reset.samples = [] ∧ State.reset.rbuf = [] ∧ step State.reset = .next State.reset

/-! ### System commands -/

/-- 43_system.md R160. -/
def Obligations.NopOnlyReturns : Prop := ∀ s : State, exec .nop s = .next (returned 0 s)

/-- 43_system.md R161: registers and streams at their reset values, BITS and LEN as they were; it is the one command
accepted while the fault bit is set. -/
def Obligations.RstRestoresResetState : Prop :=
  (∀ s : State, exec .rst s = .next (returned 0
    { s with
      ctrl := ⟨.bits, .regular, .header⟩, stat := ⟨.seekingZeros, false, none⟩, cks := 0, idx := 0, run := 0, data := 0,
      eidx := 0, obits := [], samples := [], rbuf := [] })) ∧
  ∀ (s : State) (i : Instr) (rest : List HostEvent), s.inbox = .command (encode i) :: rest → s.stat.flt = true →
    step s = if i = .rst then exec .rst { s with inbox := rest } else .next (illegal { s with inbox := rest })

/-- 43_system.md R162, with the fields of CTRL and STAT at the positions of 10_state.md R24, R25. -/
def Obligations.GetrReturnsRegister : Prop :=
  ∀ (s : State) (r : Reg), exec (.getr r) s = .next (returned (registerValue r s) s)

/-- 43_system.md R163. -/
def Obligations.SetidxWritesIndex : Prop :=
  ∀ (s : State) (n : Count), exec (.setidx n) s = .next (returned 0 { s with idx := n })

/-! ### Frame unit -/

/-- 40_frame.md R101: the frame's 9 bits, and `ReadFrame` over them answers the byte, wherever they stand. -/
def Obligations.ReadFrameInvertsFrame : Prop :=
  (∀ v : Byte, frame v = frameBits v) ∧
  ∀ (s : State) (base : Nat) (v : Byte), Holds s base (frameBits v) → readFrame s base = .ok v

/-- 40_frame.md R102. -/
def Obligations.FwrEmitsFrameAndTallies : Prop :=
  ∀ (s : State) (v : Byte), exec (.fwr v) s = .next (returned 0
    { emitted (frameBits v) s with cks := BitVec.ofNat 16 ((s.cks.toNat + ones v) % 65536) })

/-- 40_frame.md R103: the high byte's frame first; CKS is unchanged. -/
def Obligations.FwckEmitsChecksum : Prop :=
  ∀ s : State, exec .fwck s = .next (returned 0
    (emitted (frameBits (BitVec.ofNat 8 (s.cks.toNat / 256)) ++ frameBits (BitVec.ofNat 8 (s.cks.toNat % 256))) s))

/-- 40_frame.md R104, R105: a frame at IDX is taken; otherwise its first failing position decides the kind, and nothing
but the latch changes. -/
def Obligations.FrdTakesFrameOrReportsFault : Prop :=
  (∀ (s : State) (v : Byte), Holds s s.idx.toNat (frameBits v) → exec .frd s = .next (returned v.toNat
    { s with
      data := BitVec.ofNat 16 v.toNat, cks := BitVec.ofNat 16 ((s.cks.toNat + ones v) % 65536),
      rbuf := s.rbuf ++ [v], idx := BitVec.ofNat 24 (s.idx.toNat + 9) })) ∧
  ∀ (s : State) (k : Nat) (kind : Kind), k < 9 →
    (∀ j < k, frameFault j (symAt s (s.idx.toNat + j)) = none) →
    frameFault k (symAt s (s.idx.toNat + k)) = some kind →
      exec .frd s = .next (latched kind (s.idx.toNat + k) s)

/-- 40_frame.md R106: `FRDN n` is `n` successive `FRD` commands stopped at the first failure, but for the results. -/
def Obligations.FrdnIsRepeatedFrd : Prop :=
  ∀ (s : State) (n : Half), exec (.frdn n) s = .next
    { (frdTimes n.toNat s).1 with results := s.results ++ [(frdTimes n.toNat s).2.getD (answer 0 n.toNat)] }

/-- 40_frame.md R107: with two frames at IDX, DATA and IDX are written before the comparison of all 16 bits; where a
position of either frame fails, the first one decides the kind and nothing but the latch changes. -/
def Obligations.FrckComparesOrReportsFault : Prop :=
  (∀ (s : State) (hi lo : Byte), Holds s s.idx.toNat (frameBits hi ++ frameBits lo) →
    let stored := hi.toNat * 256 + lo.toNat
    let moved := { s with data := BitVec.ofNat 16 stored, idx := BitVec.ofNat 24 (s.idx.toNat + 18) }
    exec .frck s = .next
      (if stored = s.cks.toNat then returned stored moved else latched .checksumMismatch s.idx.toNat moved)) ∧
  ∀ (s : State) (k : Nat) (kind : Kind), k < 18 →
    (∀ j < k, frameFault (j % 9) (symAt s (s.idx.toNat + j)) = none) →
    frameFault (k % 9) (symAt s (s.idx.toNat + k)) = some kind →
      exec .frck s = .next (latched kind (s.idx.toNat + k) s)

/-- 40_frame.md R108. -/
def Obligations.CkclrClearsChecksum : Prop :=
  ∀ s : State, exec .ckclr s = .next (returned 0 { s with cks := 0 })

/-- 40_frame.md R110: the checksum of a byte sequence, on the write side and on the read side, is the number of its 1
data bits modulo 65536. -/
def Obligations.ChecksumCountsDataBits : Prop :=
  (∀ (s : State) (bytes : List Byte), ∃ t, execAll (.ckclr :: bytes.map .fwr) s = some t ∧
    t.cks.toNat = (bytes.map ones).sum % 65536) ∧
  ∀ (s : State) (bytes : List Byte), bytes.length ≤ 65535 → Holds s s.idx.toNat (bytes.flatMap frameBits) →
    ∃ t, execAll [.ckclr, .frdn (BitVec.ofNat 16 bytes.length)] s = some t ∧
      t.cks.toNat = (bytes.map ones).sum % 65536 ∧ t.rbuf = s.rbuf ++ bytes ∧
      t.idx.toNat = s.idx.toNat + 9 * bytes.length

/-- 40_frame.md R101, R103, R107, R110: a record written in bits form, bound and read back, is recovered, and its
checksum matches. -/
def Obligations.RecordReadsBack : Prop :=
  ∀ (s u : State) (bytes : List Byte), bytes.length ≤ 65535 → s.ctrl.omode = .bits →
    ∃ t, execAll (.ckclr :: (bytes.map .fwr ++ [.fwck])) { s with obits := [] } = some t ∧
      ∃ v, execAll [.ckclr, .frdn (BitVec.ofNat 16 bytes.length), .frck]
          { bindInput t.obits u with idx := 0, rbuf := [] } = some v ∧
        v.rbuf = bytes ∧ v.idx.toNat = (bytes.length + 2) * 9 ∧
        v.results = u.results ++ [answer 0 0, answer 0 bytes.length, answer 0 t.cks.toNat]

/-! ### Scanner -/

/-- 41_scanner.md R121. -/
def Obligations.SrstResetsScanState : Prop :=
  ∀ s : State, exec .srst s = .next (returned 0
    { s with run := 0, stat := ⟨.seekingZeros, s.stat.flt, s.stat.err⟩ })

/-- 41_scanner.md R123: every transition. A count is claimed while RUN + 1 fits the register. -/
def Obligations.SstepFollowsTransitions : Prop :=
  ∀ (s : State),
    let p := s.params.scan.get s.ctrl.ssel
    let enter := fun (x : ScanState) (r : Nat) => returned (sstNumber x)
      { s with
        stat := ⟨x, s.stat.flt, s.stat.err⟩, run := BitVec.ofNat 24 r, idx := BitVec.ofNat 24 (s.idx.toNat + 1) }
    let fail := returned 4
      { s with
        stat := ⟨.failed, s.stat.flt, s.stat.err⟩, eidx := s.idx, idx := BitVec.ofNat 24 (s.idx.toNat + 1) }
    (s.stat.sst = .found → exec .sstep s = .next (returned 3 s)) ∧
    (s.stat.sst = .failed → exec .sstep s = .next (returned 4 s)) ∧
    (s.stat.sst ≠ .found → s.stat.sst ≠ .failed → symAt s s.idx.toNat = none →
      exec .sstep s = .next (latched .endOfInput s.idx.toNat s)) ∧
    (s.stat.sst ≠ .found → s.stat.sst ≠ .failed → (∃ b, symAt s s.idx.toNat = some b ∧ 1 < b.toNat) →
      exec .sstep s = .next fail) ∧
    (s.stat.sst = .seekingZeros → symAt s s.idx.toNat = some 0 → s.run.toNat + 1 < 2 ^ 24 →
      exec .sstep s = .next (enter .seekingZeros (s.run.toNat + 1))) ∧
    (s.stat.sst = .seekingZeros → symAt s s.idx.toNat = some 1 →
      exec .sstep s = .next (if p.minZ.toNat ≤ s.run.toNat then enter .countingHighMarker 1 else fail)) ∧
    (s.stat.sst = .countingHighMarker → symAt s s.idx.toNat = some 1 → s.run.toNat + 1 < 2 ^ 24 →
      exec .sstep s = .next (enter .countingHighMarker (s.run.toNat + 1))) ∧
    (s.stat.sst = .countingHighMarker → symAt s s.idx.toNat = some 0 →
      exec .sstep s = .next (if s.run.toNat = p.hRun.toNat then enter .countingLowMarker 1 else fail)) ∧
    (s.stat.sst = .countingLowMarker → symAt s s.idx.toNat = some 0 → s.run.toNat + 1 < 2 ^ 24 →
      exec .sstep s = .next (enter .countingLowMarker (s.run.toNat + 1))) ∧
    (s.stat.sst = .countingLowMarker → symAt s s.idx.toNat = some 1 →
      exec .sstep s = .next (if s.run.toNat = p.lRun.toNat then enter .found s.run.toNat else fail))

/-- The model's choice of assumption 5: a count that RUN cannot hold completes, with RUN free and all else as
41_scanner.md R123 says. -/
def Obligations.SstepCountPastRegister : Prop :=
  ∀ (s : State) (b : Byte), s.run.toNat = 2 ^ 24 - 1 → symAt s s.idx.toNat = some b →
    ((s.stat.sst = .seekingZeros ∧ b = 0) ∨ (s.stat.sst = .countingHighMarker ∧ b = 1) ∨
      (s.stat.sst = .countingLowMarker ∧ b = 0)) →
    ∃ (r : Count) (f : Nat), exec .sstep s = .next (returned (sstNumber s.stat.sst)
      { s with run := r, free := f, idx := BitVec.ofNat 24 (s.idx.toNat + 1) })

/-- 41_scanner.md R126, stepping from a fresh scan state: the exact mark is found right after its last bit, a longer zero
run too; a zero run too short, and a marker run too short or too long, fail at the bit that ends it. -/
def Obligations.ScannerIsExact : Prop :=
  ∀ (s : State) (z : Nat), s.stat.sst = .seekingZeros → s.run = 0 →
    let p := s.params.scan.get s.ctrl.ssel
    let failsAt := fun (n : Nat) =>
      (sstepTimes (n + 1) s).stat.sst = .failed ∧ (sstepTimes (n + 1) s).eidx.toNat = s.idx.toNat + n ∧
        (sstepTimes (n + 1) s).idx.toNat = s.idx.toNat + n + 1
    (p.minZ.toNat ≤ z → 1 ≤ p.hRun.toNat → 1 ≤ p.lRun.toNat →
      Holds s s.idx.toNat (syncMark z p.hRun.toNat p.lRun.toNat) →
        let t := sstepTimes (z + p.hRun.toNat + p.lRun.toNat + 1) s
        t.stat.sst = .found ∧ t.idx.toNat = s.idx.toNat + (z + p.hRun.toNat + p.lRun.toNat + 1)) ∧
    (z < p.minZ.toNat → Holds s s.idx.toNat (List.replicate z false ++ [true]) → failsAt z) ∧
    (∀ h, p.minZ.toNat ≤ z → 1 ≤ h → h ≠ p.hRun.toNat →
      Holds s s.idx.toNat (List.replicate z false ++ List.replicate h true ++ [false]) → failsAt (z + h)) ∧
    ∀ l, p.minZ.toNat ≤ z → 1 ≤ p.hRun.toNat → 1 ≤ l → l ≠ p.lRun.toNat →
      Holds s s.idx.toNat (syncMark z p.hRun.toNat l) → failsAt (z + p.hRun.toNat + l)

/-- 41_scanner.md R122, R124: from IDX at the first bit of a mark the active profile accepts, `SCAN` stops right after
it, with RUN = LRUN. -/
def Obligations.ScanFindsMarkAtIndex : Prop :=
  ∀ (s : State) (z : Nat),
    let p := s.params.scan.get s.ctrl.ssel
    p.minZ.toNat ≤ z → 1 ≤ p.hRun.toNat → 1 ≤ p.lRun.toNat →
    Holds s s.idx.toNat (syncMark z p.hRun.toNat p.lRun.toNat) →
      let after := s.idx.toNat + (z + p.hRun.toNat + p.lRun.toNat + 1)
      exec .scan s = .next (returned after
        { s with stat := ⟨.found, s.stat.flt, s.stat.err⟩, run := p.lRun, idx := BitVec.ofNat 24 after })

/-- 41_scanner.md R124: `SCAN` always completes, in one of its two ways; and in both RUN is at most LEN (the part of
10_state.md R23 that holds). -/
def Obligations.ScanEndsFoundOrAtEnd : Prop :=
  ∀ s : State, ∃ t, exec .scan s = .next t ∧
    t = { s with stat := t.stat, run := t.run, idx := t.idx, eidx := t.eidx, results := t.results } ∧
    t.stat.flt = s.stat.flt ∧ t.run.toNat ≤ s.len.toNat ∧
    ((t.stat.sst = .found ∧ t.stat.err = s.stat.err ∧ t.run = (s.params.scan.get s.ctrl.ssel).lRun ∧
        s.idx.toNat < t.idx.toNat ∧ t.idx.toNat ≤ s.len.toNat ∧
        t.results = s.results ++ [answer 0 t.idx.toNat]) ∨
      (t.stat.sst ≠ .found ∧ t.stat.sst ≠ .failed ∧ t.stat.err = some .tapeMarkNotFound ∧
        t.idx.toNat = max s.idx.toNat s.len.toNat ∧ t.eidx = t.idx ∧
        t.results = s.results ++ [answer 4 t.idx.toNat]))

/-- 41_scanner.md R124: `SCAN` is the host loop over `SRST` and `SSTEP`, but for the result words and, at the end of the
input, the error code. -/
def Obligations.ScanIsHostLoop : Prop :=
  ∀ s s0 t : State, ∀ found : Bool, exec .srst s = .next s0 →
    hostScan (s.len.toNat - s.idx.toNat + 1) s0 = (t, found) →
      exec .scan s = .next
        (if found then { t with results := s.results ++ [answer 0 t.idx.toNat] }
         else
          { t with
            stat := ⟨t.stat.sst, t.stat.flt, some .tapeMarkNotFound⟩,
            results := s.results ++ [answer 4 t.idx.toNat] })

/-- 41_scanner.md R125: the repeat mark is there exactly when a 1 and RPT_ZEROS zeros stand at IDX and no further 0
follows; otherwise the first offending position, or LEN, is reported and IDX does not move. -/
def Obligations.RmarkMatchesExactly : Prop :=
  ∀ s : State,
    let n := s.params.rptZeros.toNat
    (Holds s s.idx.toNat (true :: List.replicate n false) → symAt s (s.idx.toNat + n + 1) ≠ some 0 →
      exec .rmark s = .next (returned 0 { s with idx := BitVec.ofNat 24 (s.idx.toNat + n + 1) })) ∧
    (Holds s s.idx.toNat (true :: List.replicate n false) → symAt s (s.idx.toNat + n + 1) = some 0 →
      exec .rmark s = .next (latched .repeatMarkNotFound (s.idx.toNat + n + 1) s)) ∧
    ∀ k ≤ n, (∀ j < k, symAt s (s.idx.toNat + j) = some (symbol (j == 0))) →
      symAt s (s.idx.toNat + k) ≠ some (symbol (k == 0)) →
        exec .rmark s = .next
          (latched .repeatMarkNotFound (if s.idx.toNat + k < s.len.toNat then s.idx.toNat + k else s.len.toNat) s)

/-! ### Output and pulse unit -/

/-- 41_scanner.md R120, 42_output.md R142, R143: a selection command writes its field of CTRL and nothing else. -/
def Obligations.SelectionWritesOneField : Prop :=
  (∀ (s : State) (sec : Section),
    exec (.ssel sec) s = .next (returned 0 { s with ctrl := ⟨s.ctrl.omode, s.ctrl.psel, sec⟩ })) ∧
  (∀ (s : State) (m : OutMode),
    exec (.omode m) s = .next (returned 0 { s with ctrl := ⟨m, s.ctrl.psel, s.ctrl.ssel⟩ })) ∧
  ∀ (s : State) (p : PulseProfile),
    exec (.psel p) s = .next (returned 0 { s with ctrl := ⟨s.ctrl.omode, p, s.ctrl.ssel⟩ })

/-- 42_output.md R144. -/
def Obligations.EmitbEmitsOneBit : Prop :=
  ∀ (s : State) (b : Bool), exec (.emitb b) s = .next (returned 0 (emitted [b] s))

/-- 42_output.md R145. -/
def Obligations.GapEmitsZeros : Prop :=
  ∀ (s : State) (n : Count), exec (.gap n) s = .next (returned 0 (emitted (List.replicate n.toNat false) s))

/-- 42_output.md R146. -/
def Obligations.MarkEmitsSyncMark : Prop :=
  ∀ (s : State) (sec : Section),
    let m := (s.params.pulse.get s.ctrl.psel).marks.get sec
    exec (.mark sec) s = .next (returned 0 (emitted (syncMark m.gap.toNat m.markHi.toNat m.markLo.toNat) s))

/-- 42_output.md R147. -/
def Obligations.RptEmitsRepeatMark : Prop :=
  ∀ s : State, exec .rpt s = .next (returned 0 (emitted (true :: List.replicate s.params.rptZeros.toNat false) s))

/-- 42_output.md R140, R141: `Emit` in both modes. -/
def Obligations.EmitFollowsOutputMode : Prop := ∀ (s : State) (q : List Bool), emit q s = emitted q s

/-- 42_output.md R146 under WF1, WF2 of 00_scope.md R8: a mark emitted in bits form and bound is found by the scanner
profile of its section, which stops right after it. -/
def Obligations.EmittedMarkIsFound : Prop :=
  ∀ (s u : State) (sec : Section), s.params.wf1At sec = true → s.params.wf2At s.ctrl.psel sec = true →
    s.ctrl.omode = .bits →
    let m := (s.params.pulse.get s.ctrl.psel).marks.get sec
    m.gap.toNat + m.markHi.toNat + m.markLo.toNat + 1 < 2 ^ 24 →
      ∃ t, exec (.mark sec) { s with obits := [] } = .next t ∧
        ∃ v, exec .scan { bindInput t.obits u with params := s.params, idx := 0, ctrl := ⟨.bits, .regular, sec⟩ } =
            .next v ∧
          v.stat.sst = .found ∧ v.idx.toNat = t.obits.length ∧ latest v = answer 0 t.obits.length

/-- 42_output.md R148, for every sequence without `OMODE` and without `RST` (which selects BITS too, 43_system.md R161;
leaving it out is DEDUCED, assumption 13): in PCM mode SAMPLES grows by the rendering, under the pulse profile in
force, of exactly the bits OBITS would grow by, and every register effect is the same. -/
def Obligations.PcmRendersTheBits : Prop :=
  ∀ (is : List Instr) (s : State), (∀ i ∈ is, i ≠ .rst ∧ ∀ m, i ≠ .omode m) → s.ctrl.omode = .bits →
    ∃ t u, execAll is s = some t ∧ execAll is (inPcm s) = some u ∧ t.samples = s.samples ∧ u.obits = s.obits ∧
      u.samples = s.samples ++ renderedBits is s ∧
      { u with obits := t.obits, samples := t.samples, results := t.results } = inPcm t

/-- 42_output.md R146, R147, 40_frame.md R102, R103, 44_record_layer.md R178, R180: the length of a recording in bits. -/
def Obligations.RecordingLength : Prop :=
  ∀ (s : State) (p : PulseProfile) (h b : List Byte), h.length = 128 →
    let m := fun sec => let l := (s.params.pulse.get p).marks.get sec
      l.gap.toNat + l.markHi.toNat + l.markLo.toNat + 1
    ∃ t, execAll (encodeProgram .bits p h b) s = some t ∧
      t.obits.length =
        match p with
        | .fast => m .header + 1170 + m .payload + (b.length + 2) * 9
        | .regular =>
          m .header + 2 * 1170 + m .payload + 2 * (b.length + 2) * 9 + 2 * (s.params.rptZeros.toNat + 1)

/-! ### Rules over all commands -/

/-- 30_encoding.md R82: every command delivers exactly one result word, with bits 27:24 zero and a code of at most 8. -/
def Obligations.EveryCommandReturnsOneResult : Prop :=
  ∀ (s : State) (i : Instr), ∃ (t : State) (code value : Nat), exec i s = .next t ∧ code ≤ 8 ∧ value < 2 ^ 24 ∧
    t.results = s.results ++ [answer code value]

/-- 60_exceptions.md R202: the commands that never fail. -/
def Obligations.WriteSideNeverFails : Prop :=
  ∀ (s : State) (i : Instr),
    i ≠ .frd → (∀ n, i ≠ .frdn n) → i ≠ .frck → i ≠ .sstep → i ≠ .scan → i ≠ .rmark →
      ∃ t, exec i s = .next t ∧ isOk (latest t) = true

/-- 60_exceptions.md R204: a failing command latches its code in ERR and its index in EIDX and leaves FLT; a command that
answers OK leaves ERR, but for `RST`. -/
def Obligations.FailuresLatch : Prop :=
  ∀ (s t : State) (i : Instr), exec i s = .next t →
    (isOk (latest t) = false →
      ∃ k, k ≠ .illegalCommand ∧ t.stat.err = some k ∧ latest t = answer (codeOf k) t.eidx.toNat ∧
        t.stat.flt = s.stat.flt) ∧
    (isOk (latest t) = true → i ≠ .rst → t.stat.err = s.stat.err ∧ t.stat.flt = s.stat.flt)

/-- 10_state.md R20, the column 'written by': which commands may change each register, CTRL and STAT field by field. No
accepted command changes FLT; ERR changes on a failure only. -/
def Obligations.RegisterWriters : Prop :=
  ∀ (s t : State) (i : Instr), exec i s = .next t → i ≠ .rst →
    t.len = s.len ∧ t.params = s.params ∧ t.inbox = s.inbox ∧
    ((∀ m, i ≠ .omode m) → t.ctrl.omode = s.ctrl.omode) ∧
    ((∀ p, i ≠ .psel p) → t.ctrl.psel = s.ctrl.psel) ∧
    ((∀ x, i ≠ .ssel x) → t.ctrl.ssel = s.ctrl.ssel) ∧
    (i ≠ .srst → i ≠ .sstep → i ≠ .scan → t.stat.sst = s.stat.sst ∧ t.run = s.run) ∧
    t.stat.flt = s.stat.flt ∧ (isOk (latest t) = true → t.stat.err = s.stat.err) ∧
    ((∀ v, i ≠ .fwr v) → i ≠ .frd → (∀ n, i ≠ .frdn n) → i ≠ .ckclr → t.cks = s.cks) ∧
    (i ≠ .frd → (∀ n, i ≠ .frdn n) → i ≠ .frck → t.data = s.data) ∧
    (i ≠ .frd → (∀ n, i ≠ .frdn n) → i ≠ .frck → i ≠ .sstep → i ≠ .scan → i ≠ .rmark → (∀ n, i ≠ .setidx n) →
      t.idx = s.idx) ∧
    (isOk (latest t) = true → i ≠ .sstep → i ≠ .scan → t.eidx = s.eidx)

/-- 20_memory.md R50, R61, 10_state.md R32: no command writes BITS; the streams only grow, but for `RST`; only the six
output commands append to OBITS or SAMPLES, to the one CTRL.OMODE selects; only `FRD` and `FRDN` append to RBUF. -/
def Obligations.StreamsOnlyGrow : Prop :=
  ∀ (s t : State) (i : Instr), exec i s = .next t →
    t.bits = s.bits ∧
    (i ≠ .rst →
      s.obits <+: t.obits ∧ s.samples <+: t.samples ∧ s.rbuf <+: t.rbuf ∧
      (s.ctrl.omode = .bits → t.samples = s.samples) ∧ (s.ctrl.omode = .pcm → t.obits = s.obits) ∧
      ((∀ v, i ≠ .fwr v) → i ≠ .fwck → (∀ b, i ≠ .emitb b) → (∀ n, i ≠ .gap n) → (∀ x, i ≠ .mark x) → i ≠ .rpt →
        t.obits = s.obits ∧ t.samples = s.samples) ∧
      (i ≠ .frd → (∀ n, i ≠ .frdn n) → t.rbuf = s.rbuf))

/-- 10_state.md R22, 20_memory.md R56: no command but `SETIDX` moves IDX past LEN, and none of the reading commands
moves it back, so IDX never wraps. -/
def Obligations.IndexStaysInsideInput : Prop :=
  ∀ (s t : State) (i : Instr), exec i s = .next t → (∀ n, i ≠ .setidx n) → i ≠ .rst →
    s.idx.toNat ≤ t.idx.toNat ∧ t.idx.toNat ≤ max s.idx.toNat s.len.toNat

/-- 60_exceptions.md R200, R208: no command, legal or not, stops the machine. -/
def Obligations.CommandsNeverStopTheMachine : Prop :=
  ∀ (s : State) (w : Word) (rest : List HostEvent), s.inbox = .command w :: rest → Answers s

/-- The invariant of Safety.lean (20_memory.md R50, 60_exceptions.md R205, R206, 30_encoding.md R82) is kept by every
step, from every state that has it. -/
def Obligations.StepKeepsInvariant : Prop := ∀ s t : State, Inv s → step s = .next t → Inv t

/-- The reset state has the invariant. -/
def Obligations.ResetHasInvariant : Prop := Inv State.reset

/-! ### The host's record layer -/

/-- 44_record_layer.md R171: the 128-byte layout holds the header's fields, whatever the byte order. -/
def Obligations.HeaderLayoutRoundTrip : Prop :=
  ∀ (o : ByteOrder) (h : Header), h.wf = true →
    (headerBytes o h).length = 128 ∧ headerOf o (headerBytes o h) = some h

/-- 44_record_layer.md R172: CKS after a header's bytes is the number of their 1 bits, and never wraps. -/
def Obligations.HeaderChecksumNeverWraps : Prop :=
  ∀ (s : State) (h : List Byte), h.length = 128 →
    (h.map ones).sum ≤ 1024 ∧ recordChecksum h = BitVec.ofNat 16 (h.map ones).sum ∧
      ∃ t, execAll (.ckclr :: h.map .fwr) s = some t ∧ t.cks.toNat = (h.map ones).sum

/-- 44_record_layer.md R175, R176: a translated name of at most 16 characters without the terminator is kept; a longer
one fails. -/
def Obligations.NameBoundary : Prop :=
  ∀ (cr attr : Byte) (name : List Byte) (len load start : Half),
    (name.length ≤ 16 → cr ∉ name →
      ∃ h, encodeHeader cr attr name len load start = .ok h ∧ h.wf = true ∧ logicalName cr h = name) ∧
    (16 < name.length → encodeHeader cr attr name len load start = .error .nameTooLong)

/-- 44_record_layer.md R179, R176: a payload's record that stands at an index of a bit sequence is decoded from there,
whatever surrounds it, and its checksum matches. -/
def Obligations.PayloadDecodesFromBits : Prop :=
  ∀ (s : State) (before after : List Byte) (bytes : List Byte),
    let record := (bytes.flatMap frameBits ++ frameBits (highByte (recordChecksum bytes)) ++
      frameBits (lowByte (recordChecksum bytes))).map symbol
    bytes.length ≤ 65535 → s.stat.flt = false → (before ++ record ++ after).length < 2 ^ 24 →
      ∃ t, decodePayloadFromBits (before ++ record ++ after) (BitVec.ofNat 24 before.length)
          (BitVec.ofNat 16 bytes.length) s = .ok (⟨bytes, recordChecksum bytes, none⟩, t) ∧
        t.idx.toNat = before.length + (bytes.length + 2) * 9 ∧ t.rbuf = s.rbuf ++ bytes

/-- 44_record_layer.md R176: a header's record that stands at an index of a bit sequence is decoded from there. With any
other stored checksum the record fails with ChecksumMismatch, which R176 calls not fatal to the caller. That the decode
then still answers the header, with the failure in the copy as `FRCK`'s result word, is the model's choice (DEDUCED,
assumption 15). -/
def Obligations.HeaderDecodesFromBits : Prop :=
  ∀ (s : State) (before after : List Byte) (h : Header) (stored : Half),
    let bytes := headerBytes s.params.hdr16 h
    let record := (bytes.flatMap frameBits ++ frameBits (highByte stored) ++ frameBits (lowByte stored)).map symbol
    h.wf = true → s.stat.flt = false → (before ++ record ++ after).length < 2 ^ 24 →
      ∃ t, decodeHeaderFromBits (before ++ record ++ after) (BitVec.ofNat 24 before.length) s =
          .ok (h, ⟨bytes, stored, if stored = recordChecksum bytes then none else some (answer 3 (before.length + 1152))⟩,
            t) ∧
        t.idx.toNat = before.length + 1170

/-- 44_record_layer.md R183: the choice of the header from its two copies. That HeaderMismatch carries the failing
result word of each copy, and none where both copies pass and differ, is the model's choice (DEDUCED from R185,
assumption 15). -/
def Obligations.HeaderChoice : Prop :=
  ∀ (b1 b2 : List Byte) (k1 k2 : Half) (r1 r2 : Word),
    (b1 = b2 → k1 = k2 → chooseHeader ⟨b1, k1, none⟩ ⟨b2, k2, none⟩ = .ok b1) ∧
    (b1 ≠ b2 ∨ k1 ≠ k2 → chooseHeader ⟨b1, k1, none⟩ ⟨b2, k2, none⟩ = .error (.headerMismatch none none)) ∧
    chooseHeader ⟨b1, k1, none⟩ ⟨b2, k2, some r2⟩ = .ok b1 ∧ chooseHeader ⟨b1, k1, some r1⟩ ⟨b2, k2, none⟩ = .ok b2 ∧
    chooseHeader ⟨b1, k1, some r1⟩ ⟨b2, k2, some r2⟩ = .error (.headerMismatch (some r1) (some r2))

/-- 44_record_layer.md R187: a tape-file container gives back its recording. -/
def Obligations.TapeFileRoundTrip : Prop :=
  ∀ (o : ByteOrder) (r : Recording), r.header.wf = true → r.payload.length = r.header.fileLength.toNat →
    recordingFromContainer o (tapeFile o r) = some r
end

