-- ==== Sys2Proof/Laws/State.lean ====
section
/-! SUPPORT. What each state update leaves in each field: one lemma per field per update, so that no later proof unfolds
a record update. -/

namespace Sys2Proof.Machine

variable (s : State)

/-! ### deliver -/

@[simp] theorem deliver_params (c : BitVec 4) (v : Count) : (deliver c v s).params = s.params := rfl
@[simp] theorem deliver_ctrl (c : BitVec 4) (v : Count) : (deliver c v s).ctrl = s.ctrl := rfl
@[simp] theorem deliver_stat (c : BitVec 4) (v : Count) : (deliver c v s).stat = s.stat := rfl
@[simp] theorem deliver_cks (c : BitVec 4) (v : Count) : (deliver c v s).cks = s.cks := rfl
@[simp] theorem deliver_idx (c : BitVec 4) (v : Count) : (deliver c v s).idx = s.idx := rfl
@[simp] theorem deliver_run (c : BitVec 4) (v : Count) : (deliver c v s).run = s.run := rfl
@[simp] theorem deliver_data (c : BitVec 4) (v : Count) : (deliver c v s).data = s.data := rfl
@[simp] theorem deliver_eidx (c : BitVec 4) (v : Count) : (deliver c v s).eidx = s.eidx := rfl
@[simp] theorem deliver_len (c : BitVec 4) (v : Count) : (deliver c v s).len = s.len := rfl
@[simp] theorem deliver_bits (c : BitVec 4) (v : Count) : (deliver c v s).bits = s.bits := rfl
@[simp] theorem deliver_obits (c : BitVec 4) (v : Count) : (deliver c v s).obits = s.obits := rfl
@[simp] theorem deliver_samples (c : BitVec 4) (v : Count) : (deliver c v s).samples = s.samples := rfl
@[simp] theorem deliver_rbuf (c : BitVec 4) (v : Count) : (deliver c v s).rbuf = s.rbuf := rfl
@[simp] theorem deliver_inbox (c : BitVec 4) (v : Count) : (deliver c v s).inbox = s.inbox := rfl
@[simp] theorem deliver_results (c : BitVec 4) (v : Count) : (deliver c v s).results = s.results ++ [resultWord c v] := rfl
@[simp] theorem deliver_free (c : BitVec 4) (v : Count) : (deliver c v s).free = s.free := rfl

/-! ### ok -/

@[simp] theorem ok_params (v : Count) : (ok v s).params = s.params := rfl
@[simp] theorem ok_ctrl (v : Count) : (ok v s).ctrl = s.ctrl := rfl
@[simp] theorem ok_stat (v : Count) : (ok v s).stat = s.stat := rfl
@[simp] theorem ok_cks (v : Count) : (ok v s).cks = s.cks := rfl
@[simp] theorem ok_idx (v : Count) : (ok v s).idx = s.idx := rfl
@[simp] theorem ok_run (v : Count) : (ok v s).run = s.run := rfl
@[simp] theorem ok_data (v : Count) : (ok v s).data = s.data := rfl
@[simp] theorem ok_eidx (v : Count) : (ok v s).eidx = s.eidx := rfl
@[simp] theorem ok_len (v : Count) : (ok v s).len = s.len := rfl
@[simp] theorem ok_bits (v : Count) : (ok v s).bits = s.bits := rfl
@[simp] theorem ok_obits (v : Count) : (ok v s).obits = s.obits := rfl
@[simp] theorem ok_samples (v : Count) : (ok v s).samples = s.samples := rfl
@[simp] theorem ok_rbuf (v : Count) : (ok v s).rbuf = s.rbuf := rfl
@[simp] theorem ok_inbox (v : Count) : (ok v s).inbox = s.inbox := rfl
@[simp] theorem ok_results (v : Count) : (ok v s).results = s.results ++ [resultWord 0 v] := rfl
@[simp] theorem ok_free (v : Count) : (ok v s).free = s.free := rfl

/-! ### raise -/

@[simp] theorem raise_params (k : Kind) (e : Count) : (raise k e s).params = s.params := by cases k <;> rfl
@[simp] theorem raise_ctrl (k : Kind) (e : Count) : (raise k e s).ctrl = s.ctrl := by cases k <;> rfl
@[simp] theorem raise_cks (k : Kind) (e : Count) : (raise k e s).cks = s.cks := by cases k <;> rfl
@[simp] theorem raise_idx (k : Kind) (e : Count) : (raise k e s).idx = s.idx := by cases k <;> rfl
@[simp] theorem raise_run (k : Kind) (e : Count) : (raise k e s).run = s.run := by cases k <;> rfl
@[simp] theorem raise_data (k : Kind) (e : Count) : (raise k e s).data = s.data := by cases k <;> rfl
@[simp] theorem raise_len (k : Kind) (e : Count) : (raise k e s).len = s.len := by cases k <;> rfl
@[simp] theorem raise_bits (k : Kind) (e : Count) : (raise k e s).bits = s.bits := by cases k <;> rfl
@[simp] theorem raise_obits (k : Kind) (e : Count) : (raise k e s).obits = s.obits := by cases k <;> rfl
@[simp] theorem raise_samples (k : Kind) (e : Count) : (raise k e s).samples = s.samples := by cases k <;> rfl
@[simp] theorem raise_rbuf (k : Kind) (e : Count) : (raise k e s).rbuf = s.rbuf := by cases k <;> rfl
@[simp] theorem raise_inbox (k : Kind) (e : Count) : (raise k e s).inbox = s.inbox := by cases k <;> rfl
@[simp] theorem raise_free (k : Kind) (e : Count) : (raise k e s).free = s.free := by cases k <;> rfl
@[simp] theorem raise_sst (k : Kind) (e : Count) : (raise k e s).stat.sst = s.stat.sst := by cases k <;> rfl
@[simp] theorem raise_err (k : Kind) (e : Count) : (raise k e s).stat.err = some k := by cases k <;> rfl
theorem raise_flt (k : Kind) (e : Count) :
    (raise k e s).stat.flt = (s.stat.flt || decide (k = .illegalCommand)) := by cases k <;> simp [raise]
theorem raise_eidx (k : Kind) (e : Count) (h : k ≠ .illegalCommand) : (raise k e s).eidx = e := by
  cases k <;> first | rfl | exact absurd rfl h
theorem raise_results (k : Kind) (e : Count) (h : k ≠ .illegalCommand) :
    (raise k e s).results = s.results ++ [resultWord k.code e] := by
  cases k <;> first | rfl | exact absurd rfl h

/-! ### softReset -/

@[simp] theorem softReset_params : (softReset s).params = s.params := rfl
@[simp] theorem softReset_ctrl : (softReset s).ctrl = Ctrl.reset := rfl
@[simp] theorem softReset_stat : (softReset s).stat = Stat.reset := rfl
@[simp] theorem softReset_cks : (softReset s).cks = 0 := rfl
@[simp] theorem softReset_idx : (softReset s).idx = 0 := rfl
@[simp] theorem softReset_run : (softReset s).run = 0 := rfl
@[simp] theorem softReset_data : (softReset s).data = 0 := rfl
@[simp] theorem softReset_eidx : (softReset s).eidx = 0 := rfl
@[simp] theorem softReset_len : (softReset s).len = s.len := rfl
@[simp] theorem softReset_bits : (softReset s).bits = s.bits := rfl
@[simp] theorem softReset_obits : (softReset s).obits = [] := rfl
@[simp] theorem softReset_samples : (softReset s).samples = [] := rfl
@[simp] theorem softReset_rbuf : (softReset s).rbuf = [] := rfl
@[simp] theorem softReset_inbox : (softReset s).inbox = s.inbox := rfl
@[simp] theorem softReset_results : (softReset s).results = s.results := rfl
@[simp] theorem softReset_free : (softReset s).free = s.free := rfl

/-! ### powerOnReset -/

@[simp] theorem powerOnReset_params : (powerOnReset s).params = s.params := rfl
@[simp] theorem powerOnReset_ctrl : (powerOnReset s).ctrl = Ctrl.reset := rfl
@[simp] theorem powerOnReset_stat : (powerOnReset s).stat = Stat.reset := rfl
@[simp] theorem powerOnReset_cks : (powerOnReset s).cks = 0 := rfl
@[simp] theorem powerOnReset_idx : (powerOnReset s).idx = 0 := rfl
@[simp] theorem powerOnReset_run : (powerOnReset s).run = 0 := rfl
@[simp] theorem powerOnReset_data : (powerOnReset s).data = 0 := rfl
@[simp] theorem powerOnReset_eidx : (powerOnReset s).eidx = 0 := rfl
@[simp] theorem powerOnReset_len : (powerOnReset s).len = 0 := rfl
@[simp] theorem powerOnReset_bits : (powerOnReset s).bits = [] := rfl
@[simp] theorem powerOnReset_obits : (powerOnReset s).obits = [] := rfl
@[simp] theorem powerOnReset_samples : (powerOnReset s).samples = [] := rfl
@[simp] theorem powerOnReset_rbuf : (powerOnReset s).rbuf = [] := rfl
@[simp] theorem powerOnReset_inbox : (powerOnReset s).inbox = s.inbox := rfl
@[simp] theorem powerOnReset_results : (powerOnReset s).results = s.results := rfl
@[simp] theorem powerOnReset_free : (powerOnReset s).free = s.free := rfl

/-! ### bindInput -/

@[simp] theorem bindInput_params (q : List Byte) : (bindInput q s).params = s.params := rfl
@[simp] theorem bindInput_ctrl (q : List Byte) : (bindInput q s).ctrl = s.ctrl := rfl
@[simp] theorem bindInput_stat (q : List Byte) : (bindInput q s).stat = s.stat := rfl
@[simp] theorem bindInput_cks (q : List Byte) : (bindInput q s).cks = s.cks := rfl
@[simp] theorem bindInput_idx (q : List Byte) : (bindInput q s).idx = s.idx := rfl
@[simp] theorem bindInput_run (q : List Byte) : (bindInput q s).run = s.run := rfl
@[simp] theorem bindInput_data (q : List Byte) : (bindInput q s).data = s.data := rfl
@[simp] theorem bindInput_eidx (q : List Byte) : (bindInput q s).eidx = s.eidx := rfl
@[simp] theorem bindInput_len (q : List Byte) : (bindInput q s).len = BitVec.ofNat 24 q.length := rfl
@[simp] theorem bindInput_bits (q : List Byte) : (bindInput q s).bits = cellsFrom 0 q := rfl
@[simp] theorem bindInput_obits (q : List Byte) : (bindInput q s).obits = s.obits := rfl
@[simp] theorem bindInput_samples (q : List Byte) : (bindInput q s).samples = s.samples := rfl
@[simp] theorem bindInput_rbuf (q : List Byte) : (bindInput q s).rbuf = s.rbuf := rfl
@[simp] theorem bindInput_inbox (q : List Byte) : (bindInput q s).inbox = s.inbox := rfl
@[simp] theorem bindInput_results (q : List Byte) : (bindInput q s).results = s.results := rfl
@[simp] theorem bindInput_free (q : List Byte) : (bindInput q s).free = s.free := rfl

/-! ### setSst -/

@[simp] theorem setSst_params (x : ScanState) : (setSst x s).params = s.params := rfl
@[simp] theorem setSst_ctrl (x : ScanState) : (setSst x s).ctrl = s.ctrl := rfl
@[simp] theorem setSst_stat (x : ScanState) : (setSst x s).stat = ⟨x, s.stat.flt, s.stat.err⟩ := rfl
@[simp] theorem setSst_cks (x : ScanState) : (setSst x s).cks = s.cks := rfl
@[simp] theorem setSst_idx (x : ScanState) : (setSst x s).idx = s.idx := rfl
@[simp] theorem setSst_run (x : ScanState) : (setSst x s).run = s.run := rfl
@[simp] theorem setSst_data (x : ScanState) : (setSst x s).data = s.data := rfl
@[simp] theorem setSst_eidx (x : ScanState) : (setSst x s).eidx = s.eidx := rfl
@[simp] theorem setSst_len (x : ScanState) : (setSst x s).len = s.len := rfl
@[simp] theorem setSst_bits (x : ScanState) : (setSst x s).bits = s.bits := rfl
@[simp] theorem setSst_obits (x : ScanState) : (setSst x s).obits = s.obits := rfl
@[simp] theorem setSst_samples (x : ScanState) : (setSst x s).samples = s.samples := rfl
@[simp] theorem setSst_rbuf (x : ScanState) : (setSst x s).rbuf = s.rbuf := rfl
@[simp] theorem setSst_inbox (x : ScanState) : (setSst x s).inbox = s.inbox := rfl
@[simp] theorem setSst_results (x : ScanState) : (setSst x s).results = s.results := rfl
@[simp] theorem setSst_free (x : ScanState) : (setSst x s).free = s.free := rfl

/-! ### tally -/

@[simp] theorem tally_params (v : Byte) : (tally v s).params = s.params := rfl
@[simp] theorem tally_ctrl (v : Byte) : (tally v s).ctrl = s.ctrl := rfl
@[simp] theorem tally_stat (v : Byte) : (tally v s).stat = s.stat := rfl
@[simp] theorem tally_cks (v : Byte) : (tally v s).cks = s.cks + BitVec.ofNat 16 (popcount8 v) := rfl
@[simp] theorem tally_idx (v : Byte) : (tally v s).idx = s.idx := rfl
@[simp] theorem tally_run (v : Byte) : (tally v s).run = s.run := rfl
@[simp] theorem tally_data (v : Byte) : (tally v s).data = s.data := rfl
@[simp] theorem tally_eidx (v : Byte) : (tally v s).eidx = s.eidx := rfl
@[simp] theorem tally_len (v : Byte) : (tally v s).len = s.len := rfl
@[simp] theorem tally_bits (v : Byte) : (tally v s).bits = s.bits := rfl
@[simp] theorem tally_obits (v : Byte) : (tally v s).obits = s.obits := rfl
@[simp] theorem tally_samples (v : Byte) : (tally v s).samples = s.samples := rfl
@[simp] theorem tally_rbuf (v : Byte) : (tally v s).rbuf = s.rbuf := rfl
@[simp] theorem tally_inbox (v : Byte) : (tally v s).inbox = s.inbox := rfl
@[simp] theorem tally_results (v : Byte) : (tally v s).results = s.results := rfl
@[simp] theorem tally_free (v : Byte) : (tally v s).free = s.free := rfl

/-! ### emit -/

@[simp] theorem emit_params (q : List Bool) : (emit q s).params = s.params := by unfold emit; split <;> rfl
@[simp] theorem emit_ctrl (q : List Bool) : (emit q s).ctrl = s.ctrl := by unfold emit; split <;> rfl
@[simp] theorem emit_stat (q : List Bool) : (emit q s).stat = s.stat := by unfold emit; split <;> rfl
@[simp] theorem emit_cks (q : List Bool) : (emit q s).cks = s.cks := by unfold emit; split <;> rfl
@[simp] theorem emit_idx (q : List Bool) : (emit q s).idx = s.idx := by unfold emit; split <;> rfl
@[simp] theorem emit_run (q : List Bool) : (emit q s).run = s.run := by unfold emit; split <;> rfl
@[simp] theorem emit_data (q : List Bool) : (emit q s).data = s.data := by unfold emit; split <;> rfl
@[simp] theorem emit_eidx (q : List Bool) : (emit q s).eidx = s.eidx := by unfold emit; split <;> rfl
@[simp] theorem emit_len (q : List Bool) : (emit q s).len = s.len := by unfold emit; split <;> rfl
@[simp] theorem emit_bits (q : List Bool) : (emit q s).bits = s.bits := by unfold emit; split <;> rfl
@[simp] theorem emit_rbuf (q : List Bool) : (emit q s).rbuf = s.rbuf := by unfold emit; split <;> rfl
@[simp] theorem emit_inbox (q : List Bool) : (emit q s).inbox = s.inbox := by unfold emit; split <;> rfl
@[simp] theorem emit_results (q : List Bool) : (emit q s).results = s.results := by unfold emit; split <;> rfl
@[simp] theorem emit_free (q : List Bool) : (emit q s).free = s.free := by unfold emit; split <;> rfl
theorem emit_obits (q : List Bool) :
    (emit q s).obits = if s.ctrl.omode = .bits then s.obits ++ q.map bitSymbol else s.obits := by
  unfold emit; split <;> simp_all
theorem emit_samples (q : List Bool) :
    (emit q s).samples =
      if s.ctrl.omode = .bits then s.samples else s.samples ++ q.flatMap (render s.params (pulseTable s)) := by
  unfold emit; split <;> simp_all

/-! ### takeByte -/

@[simp] theorem takeByte_params (v : Byte) : (takeByte v s).params = s.params := rfl
@[simp] theorem takeByte_ctrl (v : Byte) : (takeByte v s).ctrl = s.ctrl := rfl
@[simp] theorem takeByte_stat (v : Byte) : (takeByte v s).stat = s.stat := rfl
@[simp] theorem takeByte_cks (v : Byte) : (takeByte v s).cks = s.cks + BitVec.ofNat 16 (popcount8 v) := rfl
@[simp] theorem takeByte_idx (v : Byte) : (takeByte v s).idx = s.idx + 9 := rfl
@[simp] theorem takeByte_run (v : Byte) : (takeByte v s).run = s.run := rfl
@[simp] theorem takeByte_data (v : Byte) : (takeByte v s).data = v.setWidth 16 := rfl
@[simp] theorem takeByte_eidx (v : Byte) : (takeByte v s).eidx = s.eidx := rfl
@[simp] theorem takeByte_len (v : Byte) : (takeByte v s).len = s.len := rfl
@[simp] theorem takeByte_bits (v : Byte) : (takeByte v s).bits = s.bits := rfl
@[simp] theorem takeByte_obits (v : Byte) : (takeByte v s).obits = s.obits := rfl
@[simp] theorem takeByte_samples (v : Byte) : (takeByte v s).samples = s.samples := rfl
@[simp] theorem takeByte_rbuf (v : Byte) : (takeByte v s).rbuf = s.rbuf ++ [v] := rfl
@[simp] theorem takeByte_inbox (v : Byte) : (takeByte v s).inbox = s.inbox := rfl
@[simp] theorem takeByte_results (v : Byte) : (takeByte v s).results = s.results := rfl
@[simp] theorem takeByte_free (v : Byte) : (takeByte v s).free = s.free := rfl

/-! ### scannerReset -/

@[simp] theorem scannerReset_params : (scannerReset s).params = s.params := rfl
@[simp] theorem scannerReset_ctrl : (scannerReset s).ctrl = s.ctrl := rfl
@[simp] theorem scannerReset_stat : (scannerReset s).stat = ⟨.seekingZeros, s.stat.flt, s.stat.err⟩ := rfl
@[simp] theorem scannerReset_cks : (scannerReset s).cks = s.cks := rfl
@[simp] theorem scannerReset_idx : (scannerReset s).idx = s.idx := rfl
@[simp] theorem scannerReset_run : (scannerReset s).run = 0 := rfl
@[simp] theorem scannerReset_data : (scannerReset s).data = s.data := rfl
@[simp] theorem scannerReset_eidx : (scannerReset s).eidx = s.eidx := rfl
@[simp] theorem scannerReset_len : (scannerReset s).len = s.len := rfl
@[simp] theorem scannerReset_bits : (scannerReset s).bits = s.bits := rfl
@[simp] theorem scannerReset_obits : (scannerReset s).obits = s.obits := rfl
@[simp] theorem scannerReset_samples : (scannerReset s).samples = s.samples := rfl
@[simp] theorem scannerReset_rbuf : (scannerReset s).rbuf = s.rbuf := rfl
@[simp] theorem scannerReset_inbox : (scannerReset s).inbox = s.inbox := rfl
@[simp] theorem scannerReset_results : (scannerReset s).results = s.results := rfl
@[simp] theorem scannerReset_free : (scannerReset s).free = s.free := rfl

/-! ### countUp -/

@[simp] theorem countUp_params : (countUp s).params = s.params := by unfold countUp; split <;> rfl
@[simp] theorem countUp_ctrl : (countUp s).ctrl = s.ctrl := by unfold countUp; split <;> rfl
@[simp] theorem countUp_stat : (countUp s).stat = s.stat := by unfold countUp; split <;> rfl
@[simp] theorem countUp_cks : (countUp s).cks = s.cks := by unfold countUp; split <;> rfl
@[simp] theorem countUp_idx : (countUp s).idx = s.idx := by unfold countUp; split <;> rfl
@[simp] theorem countUp_data : (countUp s).data = s.data := by unfold countUp; split <;> rfl
@[simp] theorem countUp_eidx : (countUp s).eidx = s.eidx := by unfold countUp; split <;> rfl
@[simp] theorem countUp_len : (countUp s).len = s.len := by unfold countUp; split <;> rfl
@[simp] theorem countUp_bits : (countUp s).bits = s.bits := by unfold countUp; split <;> rfl
@[simp] theorem countUp_obits : (countUp s).obits = s.obits := by unfold countUp; split <;> rfl
@[simp] theorem countUp_samples : (countUp s).samples = s.samples := by unfold countUp; split <;> rfl
@[simp] theorem countUp_rbuf : (countUp s).rbuf = s.rbuf := by unfold countUp; split <;> rfl
@[simp] theorem countUp_inbox : (countUp s).inbox = s.inbox := by unfold countUp; split <;> rfl
@[simp] theorem countUp_results : (countUp s).results = s.results := by unfold countUp; split <;> rfl
theorem countUp_run : (countUp s).run = if s.run = BitVec.allOnes 24 then Config.freeRun s.free else s.run + 1 := by
  unfold countUp; split <;> rfl

/-! ### startRun -/

@[simp] theorem startRun_params (x : ScanState) : (startRun x s).params = s.params := rfl
@[simp] theorem startRun_ctrl (x : ScanState) : (startRun x s).ctrl = s.ctrl := rfl
@[simp] theorem startRun_stat (x : ScanState) : (startRun x s).stat = ⟨x, s.stat.flt, s.stat.err⟩ := rfl
@[simp] theorem startRun_cks (x : ScanState) : (startRun x s).cks = s.cks := rfl
@[simp] theorem startRun_idx (x : ScanState) : (startRun x s).idx = s.idx := rfl
@[simp] theorem startRun_run (x : ScanState) : (startRun x s).run = 1 := rfl
@[simp] theorem startRun_data (x : ScanState) : (startRun x s).data = s.data := rfl
@[simp] theorem startRun_eidx (x : ScanState) : (startRun x s).eidx = s.eidx := rfl
@[simp] theorem startRun_len (x : ScanState) : (startRun x s).len = s.len := rfl
@[simp] theorem startRun_bits (x : ScanState) : (startRun x s).bits = s.bits := rfl
@[simp] theorem startRun_obits (x : ScanState) : (startRun x s).obits = s.obits := rfl
@[simp] theorem startRun_samples (x : ScanState) : (startRun x s).samples = s.samples := rfl
@[simp] theorem startRun_rbuf (x : ScanState) : (startRun x s).rbuf = s.rbuf := rfl
@[simp] theorem startRun_inbox (x : ScanState) : (startRun x s).inbox = s.inbox := rfl
@[simp] theorem startRun_results (x : ScanState) : (startRun x s).results = s.results := rfl
@[simp] theorem startRun_free (x : ScanState) : (startRun x s).free = s.free := rfl

/-! ### scanFail -/

@[simp] theorem scanFail_params (p : Count) : (scanFail p s).params = s.params := rfl
@[simp] theorem scanFail_ctrl (p : Count) : (scanFail p s).ctrl = s.ctrl := rfl
@[simp] theorem scanFail_stat (p : Count) : (scanFail p s).stat = ⟨.failed, s.stat.flt, s.stat.err⟩ := rfl
@[simp] theorem scanFail_cks (p : Count) : (scanFail p s).cks = s.cks := rfl
@[simp] theorem scanFail_idx (p : Count) : (scanFail p s).idx = s.idx := rfl
@[simp] theorem scanFail_run (p : Count) : (scanFail p s).run = s.run := rfl
@[simp] theorem scanFail_data (p : Count) : (scanFail p s).data = s.data := rfl
@[simp] theorem scanFail_eidx (p : Count) : (scanFail p s).eidx = p := rfl
@[simp] theorem scanFail_len (p : Count) : (scanFail p s).len = s.len := rfl
@[simp] theorem scanFail_bits (p : Count) : (scanFail p s).bits = s.bits := rfl
@[simp] theorem scanFail_obits (p : Count) : (scanFail p s).obits = s.obits := rfl
@[simp] theorem scanFail_samples (p : Count) : (scanFail p s).samples = s.samples := rfl
@[simp] theorem scanFail_rbuf (p : Count) : (scanFail p s).rbuf = s.rbuf := rfl
@[simp] theorem scanFail_inbox (p : Count) : (scanFail p s).inbox = s.inbox := rfl
@[simp] theorem scanFail_results (p : Count) : (scanFail p s).results = s.results := rfl
@[simp] theorem scanFail_free (p : Count) : (scanFail p s).free = s.free := rfl

end Sys2Proof.Machine
end

