-- ==== Sys2Proof/Laws/Memory.lean ====
section
/-! SUPPORT. The canonical form of BITS: every binding gives it, every operation of the block keeps it, and two canonical
lists that read alike are equal. -/

namespace Sys2Proof.Machine

/-- The cells of a sequence are canonical, for any LEN that covers them. -/
theorem cellsFrom_wf (q : List Byte) (pos len : Nat) (h : pos + q.length ≤ len) :
    cellsWf pos len (cellsFrom pos q) = true := by
  suffices H : ∀ (q : List Byte) (pos lo : Nat), lo ≤ pos → pos + q.length ≤ len →
      cellsWf lo len (cellsFrom pos q) = true from H q pos pos le_rfl h
  intro q
  induction q with
  | nil => intros; rfl
  | cons b q ih =>
    intro pos lo hlo hlen
    simp only [List.length_cons] at hlen
    unfold cellsFrom
    split
    · exact ih (pos + 1) lo (by omega) (by omega)
    · rename_i hb
      have hb' : b ≠ 0#8 := hb
      simp [cellsWf, hlo, hb', ih (pos + 1) (pos + 1) le_rfl (by omega), show pos < len by omega]

/-- Below the first listed index every cell reads as 0x00. -/
theorem cellAt_of_lt {lo len : Nat} {cells : List Host.Cell} (h : cellsWf lo len cells = true) {pos : Nat}
    (hp : pos < lo) : cellAt cells pos = 0 := by
  induction cells generalizing lo with
  | nil => rfl
  | cons c cells ih =>
    obtain ⟨a, b⟩ := c
    simp only [cellsWf, Bool.and_eq_true, decide_eq_true_eq] at h
    unfold cellAt
    rw [if_neg (by omega)]
    exact ih h.2 (by omega)

/-- Reading the cells of a sequence gives the sequence, and 0x00 outside it. -/
theorem cellAt_cellsFrom (q : List Byte) (pos k : Nat) : cellAt (cellsFrom pos q) (pos + k) = q.getD k 0 := by
  induction q generalizing pos k with
  | nil => simp [cellsFrom, cellAt]
  | cons b q ih =>
    unfold cellsFrom
    cases k with
    | zero =>
      split
      · rename_i hb
        subst hb
        have hw := cellsFrom_wf q (pos + 1) (pos + 1 + q.length) le_rfl
        simpa using cellAt_of_lt hw (Nat.lt_succ_self pos)
      · simp [cellAt]
    | succ k =>
      have hk : pos + (k + 1) = pos + 1 + k := by omega
      split
      · simpa [hk] using ih (pos + 1) k
      · rw [cellAt, if_neg (by omega), hk]
        simpa using ih (pos + 1) k

/-- Equal readings mean equal lists: the form is canonical. -/
theorem cells_ext {lo len : Nat} {c d : List Host.Cell} (hc : cellsWf lo len c = true) (hd : cellsWf lo len d = true)
    (h : ∀ pos, cellAt c pos = cellAt d pos) : c = d := by
  induction c generalizing lo d with
  | nil =>
    cases d with
    | nil => rfl
    | cons y d =>
      obtain ⟨a, b⟩ := y
      simp only [cellsWf, Bool.and_eq_true, bne_iff_ne] at hd
      have := h a
      simp [cellAt] at this
      exact absurd this.symm hd.1.2
  | cons x c ih =>
    obtain ⟨a, b⟩ := x
    have hc' := hc
    simp only [cellsWf, Bool.and_eq_true, decide_eq_true_eq, bne_iff_ne] at hc'
    cases d with
    | nil =>
      have := h a
      simp [cellAt] at this
      exact absurd this hc'.1.2
    | cons y d =>
      obtain ⟨a', b'⟩ := y
      have hd' := hd
      simp only [cellsWf, Bool.and_eq_true, decide_eq_true_eq, bne_iff_ne] at hd'
      have haa : a = a' := by
        rcases Nat.lt_trichotomy a a' with hlt | heq | hgt
        · have := h a
          rw [cellAt, if_pos rfl, cellAt, if_neg (by omega), cellAt_of_lt hd'.2 (by omega)] at this
          exact absurd this hc'.1.2
        · exact heq
        · have := h a'
          rw [cellAt, if_neg (by omega), cellAt, if_pos rfl, cellAt_of_lt hc'.2 (by omega)] at this
          exact absurd this.symm hd'.1.2
      subst haa
      have hb : b = b' := by simpa [cellAt] using h a
      subst hb
      have := ih hc'.2 hd'.2 fun pos => by
        by_cases hp : pos < a + 1
        · rw [cellAt_of_lt hc'.2 hp, cellAt_of_lt hd'.2 hp]
        · simpa [cellAt, show a ≠ pos by omega] using h pos
      rw [this]

/-- The canonical form depends on LEN and BITS alone. -/
theorem Memory.wf_congr {s t : State} (hb : t.bits = s.bits) (hl : t.len = s.len) : Memory.wf t = Memory.wf s := by
  simp [Memory.wf, hb, hl]

/-- Reading depends on LEN and BITS alone. -/
theorem symAt_congr {s t : State} (hb : t.bits = s.bits) (hl : t.len = s.len) (pos : Nat) :
    symAt t pos = symAt s pos := by
  simp [symAt, hb, hl]

/-- A binding that fits gives the canonical form. -/
theorem bindInput_wf (q : List Byte) (s : State) (h : bindable q = true) : Memory.wf (bindInput q s) = true := by
  simp only [bindable, decide_eq_true_eq] at h
  refine cellsFrom_wf q 0 _ ?_
  rw [bindInput_len, BitVec.toNat_ofNat, Nat.mod_eq_of_lt h, Nat.zero_add]

/-- Power-on reset gives the canonical form. -/
theorem powerOnReset_wf (s : State) : Memory.wf (powerOnReset s) = true := rfl

/-- The reset memory has the canonical form. -/
theorem reset_wf : Memory.wf State.reset = true := rfl

theorem raise_wf (k : Kind) (e : Count) (s : State) : Memory.wf (raise k e s) = Memory.wf s :=
  Memory.wf_congr (by simp) (by simp)

theorem ok_wf (v : Count) (s : State) : Memory.wf (ok v s) = Memory.wf s := rfl

theorem softReset_wf (s : State) : Memory.wf (softReset s) = Memory.wf s := rfl

theorem emit_wf (q : List Bool) (s : State) : Memory.wf (emit q s) = Memory.wf s :=
  Memory.wf_congr (by simp) (by simp)

theorem takeByte_wf (v : Byte) (s : State) : Memory.wf (takeByte v s) = Memory.wf s := rfl

end Sys2Proof.Machine
end

