-- ==== Sys2Proof/Laws/Ops.lean ====
section
/-! SUPPORT. What each shared operation can do, said once: the provers cite these instead of unfolding it. -/

namespace Sys2Proof.Machine

/-! ### Reading -/

theorem symAt_eq_some {s : State} {pos : Nat} {b : Byte} :
    symAt s pos = some b ↔ pos < s.len.toNat ∧ cellAt s.bits pos = b := by
  unfold symAt; split <;> simp_all

theorem symAt_eq_none {s : State} {pos : Nat} : symAt s pos = none ↔ s.len.toNat ≤ pos := by
  unfold symAt; split <;> simp_all

/-- What a binding makes readable: the sequence, and nothing past its end. -/
theorem symAt_bindInput {q : List Byte} (s : State) (h : bindable q = true) (pos : Nat) :
    symAt (bindInput q s) pos = q[pos]? := by
  simp only [bindable, decide_eq_true_eq] at h
  have hl : (bindInput q s).len.toNat = q.length := by
    rw [bindInput_len, BitVec.toNat_ofNat, Nat.mod_eq_of_lt h]
  unfold symAt
  rw [hl]
  split
  · rename_i hp
    have := cellAt_cellsFrom q 0 pos
    simp only [Nat.zero_add] at this
    rw [bindInput_bits, this, List.getD_eq_getElem?_getD, List.getElem?_eq_getElem hp]
    rfl
  · rename_i hp
    simp [Nat.le_of_not_lt hp]

theorem readDataBits_congr {s t : State} (hb : t.bits = s.bits) (hl : t.len = s.len) (pos n : Nat) (v : Byte) :
    readDataBits t pos n v = readDataBits s pos n v := by
  induction n generalizing pos v with
  | zero => rfl
  | succ n ih => simp only [readDataBits, symAt_congr hb hl, ih]

theorem readFrame_congr {s t : State} (hb : t.bits = s.bits) (hl : t.len = s.len) (base : Nat) :
    readFrame t base = readFrame s base := by
  simp only [readFrame, symAt_congr hb hl, readDataBits_congr hb hl]

/-- Data positions that were read lie inside the input. -/
theorem readDataBits_ok_le {s : State} {pos n : Nat} {v w : Byte} (h : readDataBits s pos (n + 1) v = .ok w) :
    pos + (n + 1) ≤ s.len.toNat := by
  induction n generalizing pos v with
  | zero =>
    rw [readDataBits] at h
    split at h
    · cases h
    · rename_i hb
      have := (symAt_eq_some.mp hb).1
      omega
  | succ n ih =>
    rw [readDataBits] at h
    split at h
    · cases h
    · split at h
      · cases h
      · have := ih h
        omega

/-- A frame that was read lies inside the input and starts with a 1. -/
theorem readFrame_ok {s : State} {base : Nat} {v : Byte} (h : readFrame s base = .ok v) :
    base + 9 ≤ s.len.toNat ∧ symAt s base = some 1 ∧ readDataBits s (base + 1) 8 0 = .ok v := by
  unfold readFrame at h
  split at h
  · cases h
  · rename_i b hb
    split at h
    · rename_i h1
      subst h1
      have := readDataBits_ok_le h
      exact ⟨by omega, hb, h⟩
    · cases h

/-- The failures of the data positions: their kinds and where they lie. -/
theorem readDataBits_error {s : State} {pos n : Nat} {v : Byte} {e : FrameFailure}
    (h : readDataBits s pos n v = .error e) :
    pos ≤ e.pos ∧ e.pos < pos + n ∧
      ((e.kind = .truncated ∧ symAt s e.pos = none) ∨
        (e.kind = .badSymbol ∧ ∃ b, symAt s e.pos = some b ∧ 1 < b)) := by
  induction n generalizing pos v with
  | zero => cases h
  | succ n ih =>
    rw [readDataBits] at h
    split at h
    · rename_i hn
      cases h
      exact ⟨le_rfl, by simp, .inl ⟨rfl, hn⟩⟩
    · rename_i b hb
      split at h
      · rename_i h1
        cases h
        exact ⟨le_rfl, by simp, .inr ⟨rfl, b, hb, h1⟩⟩
      · obtain ⟨h1, h2, h3⟩ := ih h
        exact ⟨by omega, by omega, h3⟩

/-- The failures of a frame: their kinds and where they lie. -/
theorem readFrame_error {s : State} {base : Nat} {e : FrameFailure} (h : readFrame s base = .error e) :
    base ≤ e.pos ∧ e.pos < base + 9 ∧
      ((e.kind = .truncated ∧ symAt s e.pos = none) ∨
        (e.kind = .badSymbol ∧ base < e.pos ∧ ∃ b, symAt s e.pos = some b ∧ 1 < b) ∨
        (e.kind = .startBitMissing ∧ e.pos = base ∧ ∃ b, symAt s base = some b ∧ b ≠ 1)) := by
  unfold readFrame at h
  split at h
  · rename_i hn
    cases h
    exact ⟨le_rfl, by simp, .inl ⟨rfl, hn⟩⟩
  · rename_i b hb
    split at h
    · obtain ⟨h1, h2, h3⟩ := readDataBits_error h
      refine ⟨by omega, by omega, ?_⟩
      rcases h3 with h3 | ⟨hk, hx⟩
      · exact .inl h3
      · exact .inr (.inl ⟨hk, by omega, hx⟩)
    · rename_i h1
      cases h
      exact ⟨le_rfl, by simp, .inr (.inr ⟨rfl, rfl, b, hb, h1⟩)⟩

/-- A frame never fails with `IllegalCommand`. -/
theorem readFrame_error_kind {s : State} {base : Nat} {e : FrameFailure} (h : readFrame s base = .error e) :
    e.kind ≠ .illegalCommand := by
  obtain ⟨-, -, h3⟩ := readFrame_error h
  rcases h3 with h3 | h3 | h3 <;> rw [h3.1] <;> decide

/-- A byte contributes at most 8 to the checksum. -/
theorem popcount8_le (v : Byte) : popcount8 v ≤ 8 := List.count_le_length

/-- A stored checksum that was read is two frames, high byte first, both inside the input. -/
theorem readStored_ok {s : State} {base : Nat} {v : Half} (h : readStored s base = .ok v) :
    base + 18 ≤ s.len.toNat ∧
      ∃ hi lo, readFrame s base = .ok hi ∧ readFrame s (base + 9) = .ok lo ∧ v = hi ++ lo := by
  unfold readStored at h
  split at h
  · cases h
  · rename_i hi hhi
    split at h
    · cases h
    · rename_i lo hlo
      cases h
      have := (readFrame_ok hlo).1
      exact ⟨by omega, hi, lo, hhi, hlo, rfl⟩

/-! ### What a run of frames does -/

/-- `readFrames` changes CKS, DATA, IDX and RBUF alone, and RBUF only grows. -/
theorem readFrames_frame (n : Nat) (s : State) :
    ∃ bytes : List Byte,
      (readFrames n s).1 =
        { s with
          cks := (readFrames n s).1.cks, data := (readFrames n s).1.data, idx := (readFrames n s).1.idx,
          rbuf := s.rbuf ++ bytes } := by
  induction n generalizing s with
  | zero => exact ⟨[], by simp [readFrames]⟩
  | succ n ih =>
    unfold readFrames
    split
    · exact ⟨[], by simp⟩
    · rename_i v _
      obtain ⟨bytes, hb⟩ := ih (takeByte v s)
      refine ⟨v :: bytes, ?_⟩
      conv_lhs => rw [hb]
      simp [takeByte, tally]

/-- What `FRD` answers. -/
theorem execFrd_cases (s : State) :
    (∃ e, readFrame s s.idx.toNat = .error e ∧ execFrd s = .next (raiseFrame e s)) ∨
      ∃ v, readFrame s s.idx.toNat = .ok v ∧ execFrd s = .next (ok (v.setWidth 24) (takeByte v s)) := by
  unfold execFrd
  cases h : readFrame s s.idx.toNat with
  | error e => exact .inl ⟨e, rfl, rfl⟩
  | ok v => exact .inr ⟨v, rfl, rfl⟩

/-- What `FRDN` answers. -/
theorem execFrdn_cases (n : Half) (s : State) :
    (∃ t e, readFrames n.toNat s = (t, some e) ∧ execFrdn n s = .next (raiseFrame e t)) ∨
      ∃ t, readFrames n.toNat s = (t, none) ∧ execFrdn n s = .next (ok (n.setWidth 24) t) := by
  unfold execFrdn
  rcases h : readFrames n.toNat s with ⟨t, _ | e⟩
  · exact .inr ⟨t, rfl, rfl⟩
  · exact .inl ⟨t, e, rfl, rfl⟩

/-- What `FRCK` answers. -/
theorem execFrck_cases (s : State) :
    (∃ e, readStored s s.idx.toNat = .error e ∧ execFrck s = .next (raiseFrame e s)) ∨
      (∃ v, readStored s s.idx.toNat = .ok v ∧ v = s.cks ∧
        execFrck s = .next (ok (v.setWidth 24) { s with data := v, idx := s.idx + 18 })) ∨
      ∃ v, readStored s s.idx.toNat = .ok v ∧ v ≠ s.cks ∧
        execFrck s = .next (raise .checksumMismatch s.idx { s with data := v, idx := s.idx + 18 }) := by
  unfold execFrck
  cases h : readStored s s.idx.toNat with
  | error e => exact .inl ⟨e, rfl, rfl⟩
  | ok v =>
    by_cases hv : v = s.cks
    · exact .inr (.inl ⟨v, rfl, hv, by simp [hv]⟩)
    · exact .inr (.inr ⟨v, rfl, hv, by simp [hv]⟩)

/-! ### The scanner -/

/-- A transition changes STAT.SST, RUN, EIDX, IDX and the free counter alone. -/
theorem scanBit_frame (b : Bool) (pos : Count) (s : State) :
    scanBit b pos s =
      { s with
        stat := ⟨(scanBit b pos s).stat.sst, s.stat.flt, s.stat.err⟩, run := (scanBit b pos s).run,
        eidx := (scanBit b pos s).eidx, free := (scanBit b pos s).free } := by
  unfold scanBit
  split <;> (try split) <;>
    simp [startRun, scanFail, setSst] <;> (unfold countUp; split <;> rfl)

/-- Consuming a symbol moves IDX by one, and beside it changes STAT.SST, RUN, EIDX and the free counter alone. -/
theorem scanSymbol_frame (b : Byte) (s : State) :
    scanSymbol b s =
      { s with
        stat := ⟨(scanSymbol b s).stat.sst, s.stat.flt, s.stat.err⟩, run := (scanSymbol b s).run,
        idx := s.idx + 1, eidx := (scanSymbol b s).eidx, free := (scanSymbol b s).free } := by
  unfold scanSymbol
  split
  · rfl
  · exact scanBit_frame (b == 1) s.idx { s with idx := s.idx + 1 }

/-- What `SSTEP` answers. -/
theorem execSstep_cases (s : State) :
    ((s.stat.sst = .found ∨ s.stat.sst = .failed) ∧ execSstep s = .next (ok (sstValue s) s)) ∨
      (s.stat.sst ≠ .found ∧ s.stat.sst ≠ .failed ∧ symAt s s.idx.toNat = none ∧
        execSstep s = .next (raise .endOfInput s.idx s)) ∨
      ∃ b, s.stat.sst ≠ .found ∧ s.stat.sst ≠ .failed ∧ symAt s s.idx.toNat = some b ∧
        execSstep s = .next (ok (sstValue (scanSymbol b s)) (scanSymbol b s)) := by
  unfold execSstep
  split
  · rename_i h
    exact .inl ⟨h, rfl⟩
  · rename_i h
    rw [not_or] at h
    split
    · rename_i hn
      exact .inr (.inl ⟨h.1, h.2, hn, rfl⟩)
    · rename_i b hb
      exact .inr (.inr ⟨b, h.1, h.2, hb, rfl⟩)

@[simp] theorem restart_sst_ne (s : State) : (restart s).stat.sst ≠ .failed := by
  unfold restart
  split
  · simp
  · assumption

/-- `restart` changes STAT.SST and RUN alone. -/
theorem restart_frame (s : State) :
    restart s = { s with stat := ⟨(restart s).stat.sst, s.stat.flt, s.stat.err⟩, run := (restart s).run } := by
  unfold restart
  split <;> rfl

/-- How a scan ends: found, or the end of the input, from a state that differs from the start in STAT.SST, RUN, IDX,
EIDX and the free counter alone. -/
theorem scanLoop_cases (n : Nat) (s : State) :
    ∃ t : State,
      (∃ x r i e f, t = { s with stat := ⟨x, s.stat.flt, s.stat.err⟩, run := r, idx := i, eidx := e, free := f }) ∧
        ((t.stat.sst = .found ∧ scanLoop n s = ok t.idx t) ∨
          (t.stat.sst ≠ .found ∧ scanLoop n s = raise .tapeMarkNotFound t.idx (restart t))) := by
  induction n generalizing s with
  | zero =>
    refine ⟨s, ⟨_, _, _, _, _, rfl⟩, ?_⟩
    by_cases h : s.stat.sst = .found
    · exact .inl ⟨h, by simp [scanLoop, h]⟩
    · exact .inr ⟨h, by simp [scanLoop, h]⟩
  | succ n ih =>
    unfold scanLoop
    by_cases h : s.stat.sst = .found
    · exact ⟨s, ⟨_, _, _, _, _, rfl⟩, .inl ⟨h, by simp [h]⟩⟩
    · simp only [h, if_false]
      split
      · exact ⟨s, ⟨_, _, _, _, _, rfl⟩, .inr ⟨h, rfl⟩⟩
      · rename_i b _
        obtain ⟨t, ⟨x, r, i, e, f, ht⟩, hc⟩ := ih (scanSymbol b (restart s))
        refine ⟨t, ⟨x, r, i, e, f, ?_⟩, hc⟩
        rw [ht, scanSymbol_frame, restart_frame]

/-! ### The repeat mark -/

/-- No fault in a zero run means every position of it holds a 0 inside the input. -/
theorem zeroRunFault_none {s : State} {pos n : Nat} (h : zeroRunFault s pos n = none) :
    ∀ k < n, symAt s (pos + k) = some 0 := by
  induction n generalizing pos with
  | zero => intro k hk; omega
  | succ n ih =>
    unfold zeroRunFault at h
    split at h
    · cases h
    · rename_i b hb
      split at h
      · rename_i h0
        subst h0
        intro k hk
        cases k with
        | zero => exact hb
        | succ k =>
          have := ih h k (by omega)
          rwa [show pos + 1 + k = pos + (k + 1) by omega] at this
      · cases h

/-- No fault means a 1, `n` zeros, and no further 0. -/
theorem repeatMarkFault_none {s : State} {pos n : Nat} (h : repeatMarkFault s pos n = none) :
    symAt s pos = some 1 ∧ (∀ k < n, symAt s (pos + 1 + k) = some 0) ∧ symAt s (pos + n + 1) ≠ some 0 := by
  unfold repeatMarkFault at h
  split at h
  · cases h
  · rename_i b hb
    split at h
    · rename_i h1
      subst h1
      split at h
      · cases h
      · rename_i hz
        split at h
        · cases h
        · rename_i hn
          exact ⟨hb, zeroRunFault_none hz, hn⟩
    · cases h

/-- What `RMARK` answers. -/
theorem execRmark_cases (s : State) :
    (∃ e, repeatMarkFault s s.idx.toNat s.params.rptZeros.toNat = some e ∧
        execRmark s = .next (raise .repeatMarkNotFound (BitVec.ofNat 24 e) s)) ∨
      (repeatMarkFault s s.idx.toNat s.params.rptZeros.toNat = none ∧
        execRmark s = .next (ok 0 { s with idx := s.idx + s.params.rptZeros + 1 })) := by
  unfold execRmark
  cases h : repeatMarkFault s s.idx.toNat s.params.rptZeros.toNat with
  | none => exact .inr ⟨rfl, rfl⟩
  | some e => exact .inl ⟨e, rfl, rfl⟩

/-! ### Taking a host action -/

/-- What issuing a word does. -/
theorem issueWord_cases (w : Word) (s : State) :
    (s.stat.flt = true ∧ w ≠ rstWord ∧ issueWord w s = .next (raise .illegalCommand 0 s)) ∨
      (¬(s.stat.flt = true ∧ w ≠ rstWord) ∧
        ((∃ i, decode w = .ok i ∧ issueWord w s = exec i s) ∨
          ∃ e, decode w = .error e ∧ issueWord w s = .next (raise .illegalCommand 0 s))) := by
  unfold issueWord
  by_cases h : s.stat.flt = true ∧ w ≠ rstWord
  · exact .inl ⟨h.1, h.2, by rw [if_pos h]⟩
  · refine .inr ⟨h, ?_⟩
    rw [if_neg h]
    cases hd : decode w with
    | ok i => exact .inl ⟨i, rfl, rfl⟩
    | error e => exact .inr ⟨e, rfl, rfl⟩

/-- What a step does: wait, or take the next host action. -/
theorem step_cases (s : State) :
    (s.inbox = [] ∧ step s = .next s) ∨
      ∃ e rest, s.inbox = e :: rest ∧ step s = hostAction e { s with inbox := rest } := by
  unfold step serveNext
  cases h : s.inbox with
  | nil => exact .inl ⟨rfl, rfl⟩
  | cons e rest => exact .inr ⟨e, rest, rfl, rfl⟩

end Sys2Proof.Machine
end

