-- ==== Sys2Proof/Laws/PerInstr.lean ====
section
/-! SUPPORT. Facts about every command as syntax, one lemma per constructor: the encoding of a command is a word the
opcode map lists (30_encoding.md R81, R83). -/

namespace Sys2Proof.Laws.EncodedWordListed

/-- The command's word matches a row of the opcode map. -/
def Statement (i : Instr) : Prop := commandWordWf (encode i) = true

/-- A command whose word is computed to be listed. -/
theorem listed {i : Instr} (h : commandWordWf (encode i) = true) : Statement i := h

/-- A word that matches a listed row is listed. -/
theorem of_row {w : Word} {r : OpcodeRow} (hr : r ∈ opcodeRows) (h : w &&& r.mask = r.pattern) :
    commandWordWf w = true := by
  simp only [commandWordWf, List.any_eq_true, beq_iff_eq]
  exact ⟨r, hr, h⟩

/-- The opcode of a word made of an opcode and an immediate of which `m` masks every operand bit. -/
theorem masked_append (op : BitVec 8) (imm : Count) (m : Count) (h : imm &&& m = 0) :
    (op ++ imm) &&& ((0xFF : BitVec 8) ++ m) = op ++ (0 : Count) := by
  have h1 : op &&& (0xFF : BitVec 8) = op := BitVec.and_allOnes
  rw [BitVec.and_append, h1, h]

/-- A zero-extended operand has no bit among those above its width. -/
theorem operand_masked {w : Nat} (v : BitVec w) : v.setWidth 24 &&& (BitVec.allOnes 24 <<< w) = 0 := by
  ext i hi
  by_cases h : i < w
  · simp [h]
  · simp [h, BitVec.getLsbD_of_ge v i (by omega)]

theorem nop : Statement .nop := listed rfl
theorem rst : Statement .rst := listed rfl
theorem getr (r : Reg) : Statement (.getr r) := by cases r <;> exact listed rfl
theorem setidx (n : Count) : Statement (.setidx n) :=
  of_row (r := ⟨"SETIDX", 0x03000000, 0xFF000000⟩) (by decide) (masked_append 0x03 n 0 (by simp))
theorem fwr (v : Byte) : Statement (.fwr v) :=
  of_row (r := ⟨"FWR", 0x10000000, 0xFFFFFF00⟩) (by decide)
    (masked_append 0x10 (v.setWidth 24) 0xFFFF00 (operand_masked v))
theorem fwck : Statement .fwck := listed rfl
theorem frd : Statement .frd := listed rfl
theorem frdn (n : Half) : Statement (.frdn n) :=
  of_row (r := ⟨"FRDN", 0x13000000, 0xFFFF0000⟩) (by decide)
    (masked_append 0x13 (n.setWidth 24) 0xFF0000 (operand_masked n))
theorem frck : Statement .frck := listed rfl
theorem ckclr : Statement .ckclr := listed rfl
theorem ssel (sec : Section) : Statement (.ssel sec) := by cases sec <;> exact listed rfl
theorem srst : Statement .srst := listed rfl
theorem sstep : Statement .sstep := listed rfl
theorem scan : Statement .scan := listed rfl
theorem rmark : Statement .rmark := listed rfl
theorem omode (m : OutMode) : Statement (.omode m) := by cases m <;> exact listed rfl
theorem psel (p : PulseProfile) : Statement (.psel p) := by cases p <;> exact listed rfl
theorem emitb (b : Bool) : Statement (.emitb b) := by cases b <;> exact listed rfl
theorem gap (n : Count) : Statement (.gap n) :=
  of_row (r := ⟨"GAP", 0x33000000, 0xFF000000⟩) (by decide) (masked_append 0x33 n 0 (by simp))
theorem mark (sec : Section) : Statement (.mark sec) := by cases sec <;> exact listed rfl
theorem rpt : Statement .rpt := listed rfl

end Sys2Proof.Laws.EncodedWordListed
end

