-- ==== Sys2Proof/Laws/WellFormed.lean ====
section
/-! SUPPORT. Premise WF3 of 00_scope.md R8 holds of every parameter table that can be written down. -/

namespace Sys2Proof

/-- Every value of a pulse table is a 24-bit value. -/
theorem PulseTable.values_lt (t : PulseTable) : ∀ n ∈ t.values, n < 2 ^ 24 := by
  intro n hn
  simp only [PulseTable.values, List.mem_cons, List.not_mem_nil, or_false] at hn
  rcases hn with h | h | h | h | h | h | h | h | h | h <;> rw [h] <;> exact BitVec.isLt _

/-- WF3 holds by type (R8). -/
theorem Params.wf3_holds (p : Params) : p.wf3 = true := by
  have h8 (b : Byte) : b.toNat < 2 ^ 24 := lt_trans b.isLt (by decide)
  simp only [Params.wf3, Params.values, List.all_append, Bool.and_eq_true, List.all_eq_true, decide_eq_true_eq]
  refine ⟨⟨⟨?_, p.pulse.regular.values_lt⟩, p.pulse.fast.values_lt⟩, ?_⟩
  · intro n hn
    simp only [List.mem_cons, List.not_mem_nil, or_false] at hn
    rcases hn with h | h | h | h | h | h | h | h | h | h | h <;> rw [h] <;>
      first | exact BitVec.isLt _ | exact h8 _
  · intro n hn
    cases hc : p.streamCap with
    | none => simp [hc] at hn
    | some c =>
      simp only [hc, Option.map_some, Option.toList_some, List.mem_singleton] at hn
      rw [hn]
      exact c.isLt

end Sys2Proof
end

