-- ==== Sys2Proof/Tests/Slice0.lean ====
section
/-! SUPPORT. The model's own tests: the checks refuse ill-formed terms, words written out from the spec's encodings decode
to their commands, commands give the spec's test vectors (95_test_vectors.md, configuration T), and the hypotheses of
every statement are met by concrete values. -/

namespace Sys2Proof.Tests

open Sys2Proof.Machine Sys2Proof.Spec

/-- Configuration T (95_test_vectors.md section 2). -/
def tape : Params where
  scan := ⟨⟨6, 4, 4⟩, ⟨4, 2, 2⟩⟩
  pulse := ⟨⟨⟨3, 4⟩, ⟨1, 2⟩, ⟨8, 4, 4⟩, ⟨5, 2, 2⟩⟩, ⟨⟨2, 3⟩, ⟨1, 1⟩, ⟨6, 4, 4⟩, ⟨4, 2, 2⟩⟩⟩
  rptZeros := 3
  lvlLow := 0x20
  lvlHigh := 0xE0
  sampleRate := 8000
  crByte := 0x0D
  hdr16 := .little
  streamCap := some 100

/-- The reset state under configuration T. -/
def fresh : State := { State.reset with params := tape }

/-- The reset state with an input bound. -/
def bound (q : List Byte) : State := bindInput q fresh

/-- `bound`, with the payload section selected. -/
def payloadBound (q : List Byte) : State := { bound q with ctrl := ⟨.bits, .regular, .payload⟩ }

/-- The state after issuing words one after another. -/
def issued : List Word → State → State
  | [], s => s
  | w :: ws, s =>
    match issueWord w s with
    | .next t => issued ws t
    | _ => s

/-! ### WellFormed refuses ill-formed terms -/

theorem test_unlisted_opcode_refused : commandWordWf 0x04000000 = false := by decide
theorem test_unused_bit_refused : commandWordWf 0x10000100 = false := by decide
theorem test_listed_word_accepted : commandWordWf 0x100000A5 = true := by decide
theorem test_long_input_refused : bindable (List.replicate (2 ^ 24) 0) = false := by
  simp only [bindable, List.length_replicate]
  decide
theorem test_longest_input_accepted : bindable (List.replicate (2 ^ 24 - 1) 0) = true := by
  simp only [bindable, List.length_replicate]
  decide
theorem test_wf1_zero_run_refused : Params.wf1 { tape with scan := ⟨⟨6, 0, 4⟩, ⟨4, 2, 2⟩⟩ } = false := by decide
theorem test_wf2_short_gap_refused : Params.wf2 { tape with scan := ⟨⟨9, 4, 4⟩, ⟨4, 2, 2⟩⟩ } = false := by decide
theorem test_tape_wf : tape.wf1 = true ∧ tape.wf2 = true := by decide

/-! ### Decoding: every constructor, from words written out from 30_encoding.md R83 (op in 31:24, operand in the low bits) -/

theorem test_decode_system :
    decode 0b00000000_000000000000000000000000 = .ok .nop ∧ decode 0b00000001_000000000000000000000000 = .ok .rst ∧
    decode 0b00000010_000000000000000000000_010 = .ok (.getr .cks) ∧
    decode 0b00000010_000000000000000000000_111 = .ok (.getr .len) ∧
    decode 0b00000011_000000000000000000001101 = .ok (.setidx 13) ∧
    decode 0b00000011_111111111111111111111111 = .ok (.setidx 0xFFFFFF) := by decide
theorem test_decode_frame_unit :
    decode 0b00010000_0000000000000000_10100101 = .ok (.fwr 0xA5) ∧
    decode 0b00010001_000000000000000000000000 = .ok .fwck ∧ decode 0b00010010_000000000000000000000000 = .ok .frd ∧
    decode 0b00010011_00000000_0000000010000000 = .ok (.frdn 128) ∧
    decode 0b00010100_000000000000000000000000 = .ok .frck ∧
    decode 0b00010101_000000000000000000000000 = .ok .ckclr := by decide
theorem test_decode_scanner :
    decode 0b00100000_00000000000000000000000_0 = .ok (.ssel .header) ∧
    decode 0b00100000_00000000000000000000000_1 = .ok (.ssel .payload) ∧
    decode 0b00100001_000000000000000000000000 = .ok .srst ∧ decode 0b00100010_000000000000000000000000 = .ok .sstep ∧
    decode 0b00100011_000000000000000000000000 = .ok .scan ∧
    decode 0b00100100_000000000000000000000000 = .ok .rmark := by decide
theorem test_decode_output :
    decode 0b00110000_00000000000000000000000_1 = .ok (.omode .pcm) ∧
    decode 0b00110001_00000000000000000000000_1 = .ok (.psel .fast) ∧
    decode 0b00110010_00000000000000000000000_1 = .ok (.emitb true) ∧
    decode 0b00110011_000000000101010111110000 = .ok (.gap 22000) ∧
    decode 0b00110100_00000000000000000000000_1 = .ok (.mark .payload) ∧
    decode 0b00110101_000000000000000000000000 = .ok .rpt := by decide
/-- V77: words that are not commands. -/
theorem test_decode_illegal :
    decode 0x36000000 = .error .opcode ∧ decode 0xFF000000 = .error .opcode ∧
    decode 0x20000002 = .error .immediate ∧ decode 0x13010000 = .error .immediate ∧
    decode 0x12000001 = .error .immediate := by decide
theorem test_table_word : decodeTableWord 32 0x100000A5 = some (.fwr 0xA5) := by decide
theorem test_encode_gap : encode (.gap 22000) = 0x330055F0 := by decide

/-! ### Commands: vectors of 95_test_vectors.md section 3 -/

/-- V70. -/
theorem test_nop : issued [0x00000000] fresh = { fresh with results := [0] } := by decide
/-- V75 and P6 step 5: RST from STAT = 0x78. -/
theorem test_rst_clears_fault : issued [0x100000A5, 0x10000100, 0x01000000] fresh =
    { fresh with results := [0, 0x70000000, 0] } := by decide
/-- V72: SST = 3, ERR = 3. -/
theorem test_getr_stat :
    (issued [0x02000001] { fresh with stat := ⟨.found, false, some .checksumMismatch⟩ }).results = [0x00000033] := by
  decide
/-- R24: SSEL in bit 2, PSEL in bit 1, OMODE in bit 0. -/
theorem test_getr_ctrl : (issued [0x20000001, 0x02000000] fresh).results = [0, 0x00000004] := by decide
/-- V74. -/
theorem test_setidx : (issued [0x0300000D] fresh).idx = 13 := by decide
/-- V7. -/
theorem test_fwr_bits : (issued [0x100000A5] fresh).obits = [1, 1, 0, 1, 0, 0, 1, 0, 1] ∧
    (issued [0x100000A5] fresh).cks = 4 := by decide
/-- V8: the checksum wraps. -/
theorem test_fwr_wraps : (issued [0x100000FF] { fresh with cks := 0xFFFC }).cks = 0x0004 := by decide
/-- V11. -/
theorem test_fwck : (issued [0x11000000] { fresh with cks := 0x01A5 }).obits =
    [1, 0, 0, 0, 0, 0, 0, 0, 1, 1, 1, 0, 1, 0, 0, 1, 0, 1] := by decide
/-- V15. -/
theorem test_frd : issued [0x12000000] (bound [1, 1, 0, 1, 0, 0, 1, 0, 1]) =
    { bound [1, 1, 0, 1, 0, 0, 1, 0, 1] with idx := 9, cks := 4, data := 0xA5, rbuf := [0xA5], results := [0xA5] } := by
  decide
/-- V21: a non-bit in a data position. -/
theorem test_frd_bad_symbol : issued [0x12000000] (bound [1, 0, 1, 2, 0, 0, 0, 0, 0]) =
    { bound [1, 0, 1, 2, 0, 0, 0, 0, 0] with
      stat := ⟨.seekingZeros, false, some .badSymbol⟩, eidx := 3, results := [0x60000003] } := by decide
/-- V24: the second frame is cut short. -/
theorem test_frdn_partial : issued [0x13000002] (bound [1, 1, 0, 1, 0, 0, 1, 0, 1, 1, 0, 0, 0]) =
    { bound [1, 1, 0, 1, 0, 0, 1, 0, 1, 1, 0, 0, 0] with
      idx := 9, cks := 4, data := 0xA5, eidx := 13, rbuf := [0xA5], stat := ⟨.seekingZeros, false, some .truncated⟩,
      results := [0x2000000D] } := by decide
/-- V25. -/
theorem test_frdn_zero : issued [0x13000000] fresh = { fresh with results := [0] } := by decide

/-- Two checksum frames 0x01, 0x01 (V27, V28). -/
def storedOnes : List Byte := [1, 0, 0, 0, 0, 0, 0, 0, 1, 1, 0, 0, 0, 0, 0, 0, 0, 1]

/-- V27. -/
theorem test_frck_match : (issued [0x14000000] { bound storedOnes with cks := 0x0101 }).results = [0x00000101] := by
  decide
/-- V28: IDX is past both frames. -/
theorem test_frck_mismatch : issued [0x14000000] { bound storedOnes with cks := 0x0100 } =
    { bound storedOnes with
      cks := 0x0100, idx := 18, data := 0x0101, stat := ⟨.seekingZeros, false, some .checksumMismatch⟩,
      results := [0x30000000] } := by decide
/-- V13. -/
theorem test_ckclr : (issued [0x15000000] { fresh with cks := 0x1234 }).cks = 0 := by decide
/-- R120. -/
theorem test_ssel : (issued [0x20000001] fresh).ctrl = ⟨.bits, .regular, .payload⟩ := by decide
/-- V46. -/
theorem test_srst :
    issued [0x21000000] { fresh with stat := ⟨.failed, false, none⟩, run := 17, idx := 40 } =
      { fresh with idx := 40, results := [0] } := by decide
/-- V44: the second symbol fails. -/
theorem test_sstep_fails : (issued [0x22000000, 0x22000000] (payloadBound [0, 1, 0])).stat = ⟨.failed, false, none⟩ ∧
    (issued [0x22000000, 0x22000000] (payloadBound [0, 1, 0])).eidx = 1 := by decide
/-- V45: end of input. -/
theorem test_sstep_end : (issued [0x22000000, 0x22000000, 0x22000000] (payloadBound [0, 0])).results =
    [0, 0, 0x80000002] := by decide
/-- V30: an exact mark. -/
theorem test_scan_found : (issued [0x23000000] (bound [0, 0, 0, 0, 0, 0, 1, 1, 1, 1, 0, 0, 0, 0, 1])).results =
    [0x0000000F] := by decide
/-- V31: five zeros. -/
theorem test_scan_not_found : (issued [0x23000000] (bound [0, 0, 0, 0, 0, 1, 1, 1, 1, 0, 0, 0, 0, 1])).results =
    [0x4000000E] := by decide
/-- V47. -/
theorem test_rmark : (issued [0x24000000] (bound [1, 0, 0, 0, 1])).idx = 4 := by decide
/-- V49: four zeros are too many. -/
theorem test_rmark_too_long : (issued [0x24000000] (bound [1, 0, 0, 0, 0])).results = [0x50000004] := by decide
/-- R142. -/
theorem test_omode : (issued [0x30000001] fresh).ctrl = ⟨.pcm, .regular, .header⟩ := by decide
/-- R143. -/
theorem test_psel : (issued [0x31000001] fresh).ctrl = ⟨.bits, .fast, .header⟩ := by decide
/-- V56: low level first. -/
theorem test_emitb_one : (issued [0x30000001, 0x32000001] fresh).samples =
    [0x20, 0x20, 0x20, 0xE0, 0xE0, 0xE0, 0xE0] := by decide
/-- V63. -/
theorem test_gap_pcm : (issued [0x30000001, 0x33000002] fresh).samples = [0x20, 0xE0, 0xE0, 0x20, 0xE0, 0xE0] := by
  decide
/-- V65. -/
theorem test_mark : (issued [0x34000001] fresh).obits = [0, 0, 0, 0, 0, 1, 1, 0, 0, 1] := by decide
/-- V67. -/
theorem test_mark_fast : (issued [0x31000001, 0x34000001] fresh).obits = [0, 0, 0, 0, 1, 1, 0, 0, 1] := by decide
/-- V68. -/
theorem test_rpt : (issued [0x35000000] fresh).obits = [1, 0, 0, 0] := by decide
/-- V76: an illegal word. -/
theorem test_illegal_word : issued [0x10000100] fresh =
    { fresh with stat := ⟨.seekingZeros, true, some .illegalCommand⟩, results := [0x70000000] } := by decide
/-- 10_state.md R23 says RUN ≤ LEN always; its own rules R123 and R163 give a counterexample (assumption 5). -/
theorem test_run_exceeds_len :
    (issued [0x22000000, 0x03000000, 0x22000000] (bound [0])).run = 2 ∧
    (issued [0x22000000, 0x03000000, 0x22000000] (bound [0])).len = 1 := by decide

/-! ### Host layer -/

/-- R89: `GAP 22000`, with a comment. -/
theorem test_assemble_gap :
    assembleLine ['G', 'A', 'P', ' ', '2', '2', '0', '0', '0', ' ', ';', 'x'] = some [.gap 22000] := by decide
/-- R88: `SYNC PAY`. -/
theorem test_assemble_sync :
    assembleLine ['S', 'Y', 'N', 'C', ' ', 'P', 'A', 'Y'] = some [.ssel .payload, .scan] := by decide
/-- A sequence stops at the first result that is not OK (R88). -/
theorem test_pseudo_stops :
    (match issueAll (expandPseudo (.recrd 1)) fresh with | .next t => t.results | _ => []) = [0, 0x20000000] := by decide
/-- R175: a 17-character name. -/
theorem test_name_too_long :
    encodeHeader 0x0D 1 (List.replicate 17 0x41) 0 0 0 = .error .nameTooLong := by decide
/-- Streams of 100 cells fit the capacity of configuration T, 101 do not (R54). -/
theorem test_capacity : withinCapacity { fresh with obits := List.replicate 100 0 } = true ∧
    withinCapacity { fresh with obits := List.replicate 101 0 } = false := by decide

/-! ### Witnesses: every statement's hypotheses are met -/

theorem witness_DecodedWordIsItsEncoding : decode 0x100000A5 = .ok (.fwr 0xA5) := by decide
theorem witness_DecoderFollowsOpcodeMap : ∀ r ∈ opcodeRows, (0x04000000 : Word) &&& r.mask ≠ r.pattern := by decide
theorem witness_StepRunsDecodedCommand :
    ({ fresh with inbox := [.command 0x100000A5] }.inbox = .command 0x100000A5 :: [] ∧
      decode 0x100000A5 = .ok (.fwr 0xA5) ∧ fresh.stat.flt = false) ∧
    decode 0x01000000 = .ok .rst := by decide
theorem witness_IllegalWordSetsFaultBit :
    { fresh with inbox := [.command 0x04000000] }.inbox = .command 0x04000000 :: [] ∧ fresh.stat.flt = false ∧
      ∀ r ∈ opcodeRows, (0x04000000 : Word) &&& r.mask ≠ r.pattern := by decide

/-- A state with the fault bit set and one word pending. -/
def faulted (e : HostEvent) : State :=
  { fresh with stat := ⟨.seekingZeros, true, some .illegalCommand⟩, inbox := [e] }

theorem witness_FaultBitRefusesAllButReset :
    ((faulted (.command 0)).inbox = .command 0 :: [] ∧ (faulted (.command 0)).stat.flt = true ∧ (0 : Word) ≠ 0x01000000) ∧
    (faulted (.command 0x01000000)).inbox = .command 0x01000000 :: [] ∧ (faulted .powerOn).inbox = .powerOn :: [] := by
  decide
theorem witness_FaultBitRefusesAllButReset_kept :
    (faulted (.bind [1])).stat.flt = true ∧
      step (faulted (.bind [1])) = .next { bindInput [1] (faulted (.bind [1])) with inbox := [] } ∧
      (∀ rest, (faulted (.bind [1])).inbox ≠ .command 0x01000000 :: rest) ∧
      ∀ rest, (faulted (.bind [1])).inbox ≠ .powerOn :: rest := by
  refine ⟨rfl, rfl, ?_, ?_⟩ <;> intro rest h <;> cases h
theorem witness_BindingReplacesInput :
    (([] : List Byte).length < 2 ^ 24 ∧ (List.replicate (2 ^ 24 - 1) (0 : Byte)).length < 2 ^ 24) ∧
      2 ^ 24 ≤ (List.replicate (2 ^ 24) (0 : Byte)).length := by
  simp only [List.length_replicate]
  decide
theorem witness_BindingReplacesInput_pending (q : List Byte) :
    { fresh with inbox := [.bind q] }.inbox = .bind q :: [] := rfl
theorem witness_PowerOnAndWaiting : { fresh with inbox := [.powerOn] }.inbox = .powerOn :: [] ∧ fresh.inbox = [] := by
  decide
theorem witness_RstRestoresResetState :
    (faulted (.command 0x01000000)).inbox = .command (encode .rst) :: [] ∧
    (faulted (.command 0)).inbox = .command (encode .nop) :: [] ∧ (faulted (.command 0)).stat.flt = true := by decide

/-- The frame of 0xA5 (V3). -/
def frameA5 : List Byte := [1, 1, 0, 1, 0, 0, 1, 0, 1]

theorem witness_ReadFrameInvertsFrame : Holds (bound (0 :: frameA5)) 1 (frameBits 0xA5) := by unfold Holds; decide
theorem witness_FrdTakesFrame : Holds (bound frameA5) (bound frameA5).idx.toNat (frameBits 0xA5) := by
  unfold Holds; decide
/-- The first position and the last one, each kind. -/
theorem witness_FrdReportsFault :
    (∀ j < 0, frameFault j (symAt (bound []) (0 + j)) = none) ∧
    frameFault 0 (symAt (bound []) 0) = some .truncated ∧ frameFault 0 (symAt (bound [2]) 0) = some .startBitMissing ∧
    (∀ j < 8, frameFault j (symAt (bound [1, 0, 0, 0, 0, 0, 0, 0, 2]) (0 + j)) = none) ∧
    frameFault 8 (symAt (bound [1, 0, 0, 0, 0, 0, 0, 0, 2]) 8) = some .badSymbol ∧
    frameFault 8 (symAt (bound [1, 0, 0, 0, 0, 0, 0, 0]) 8) = some .truncated := by decide
theorem witness_FrckComparesStored :
    Holds (bound storedOnes) (bound storedOnes).idx.toNat (frameBits 1 ++ frameBits 1) := by unfold Holds; decide
/-- The start of each frame and the last position. -/
theorem witness_FrckReportsFault :
    frameFault (0 % 9) (symAt (bound []) 0) = some .truncated ∧
    (∀ j < 9, frameFault (j % 9) (symAt (bound (frameA5 ++ [0])) (0 + j)) = none) ∧
    frameFault (9 % 9) (symAt (bound (frameA5 ++ [0])) 9) = some .startBitMissing ∧
    (∀ j < 17, frameFault (j % 9) (symAt (bound (frameA5 ++ [1, 0, 0, 0, 0, 0, 0, 0])) (0 + j)) = none) ∧
    frameFault (17 % 9) (symAt (bound (frameA5 ++ [1, 0, 0, 0, 0, 0, 0, 0])) 17) = some .truncated := by decide
theorem witness_ChecksumCountsDataBits :
    ([0xA5] : List Byte).length ≤ 65535 ∧ Holds (bound frameA5) (bound frameA5).idx.toNat (([0xA5] : List Byte).flatMap frameBits) := by
  unfold Holds; decide
theorem witness_RecordReadsBack :
    ([] : List Byte).length ≤ 65535 ∧ (List.replicate 65535 (0xFF : Byte)).length ≤ 65535 ∧ fresh.ctrl.omode = .bits := by
  simp only [List.length_replicate]
  decide

/-- A scanner state over one symbol. -/
def scanning (x : ScanState) (run : Count) (q : List Byte) : State :=
  { payloadBound q with stat := ⟨x, false, none⟩, run := run }

/-- One state for each clause. -/
theorem witness_SstepFollowsTransitions :
    (scanning .found 2 [0]).stat.sst = .found ∧ (scanning .failed 2 [0]).stat.sst = .failed ∧
    symAt (scanning .seekingZeros 0 []) 0 = none ∧ symAt (scanning .countingLowMarker 0 [0xFF]) 0 = some 0xFF ∧
    symAt (scanning .seekingZeros 0xFFFFFE [0]) 0 = some 0 ∧ (scanning .seekingZeros 0xFFFFFE [0]).run.toNat + 1 < 2 ^ 24 ∧
    symAt (scanning .seekingZeros 4 [1]) 0 = some 1 ∧ symAt (scanning .countingHighMarker 0xFFFFFE [1]) 0 = some 1 ∧
    symAt (scanning .countingHighMarker 2 [0]) 0 = some 0 ∧ symAt (scanning .countingLowMarker 0xFFFFFE [0]) 0 = some 0 ∧
    symAt (scanning .countingLowMarker 2 [1]) 0 = some 1 := by decide
theorem witness_SstepCountPastRegister :
    (scanning .seekingZeros 0xFFFFFF [0]).run.toNat = 2 ^ 24 - 1 ∧ symAt (scanning .seekingZeros 0xFFFFFF [0]) 0 = some 0 ∧
    symAt (scanning .countingHighMarker 0xFFFFFF [1]) 0 = some 1 ∧
    symAt (scanning .countingLowMarker 0xFFFFFF [0]) 0 = some 0 := by decide

/-- An exact payload mark under configuration T. -/
def payloadMark : List Byte := [0, 0, 0, 0, 1, 1, 0, 0, 1]

/-- The payload scanner profile of configuration T, as the statements name it. -/
def payloadProfile : ScanProfile := tape.scan.get .payload

/-- Shared premises of the clauses, at the exact minimum of zeros. -/
theorem witness_ScannerIsExact_found :
    (payloadBound payloadMark).stat.sst = .seekingZeros ∧ (payloadBound payloadMark).run = 0 ∧
      (payloadBound payloadMark).params.scan.get (payloadBound payloadMark).ctrl.ssel = payloadProfile ∧
      payloadProfile.minZ.toNat ≤ 4 ∧ 1 ≤ payloadProfile.hRun.toNat ∧ 1 ≤ payloadProfile.lRun.toNat ∧
      Holds (payloadBound payloadMark) (payloadBound payloadMark).idx.toNat
        (syncMark 4 payloadProfile.hRun.toNat payloadProfile.lRun.toNat) := by
  refine ⟨rfl, rfl, rfl, by decide, by decide, by decide, ?_⟩
  unfold Holds; decide
theorem witness_ScannerIsExact_short_zeros :
    3 < payloadProfile.minZ.toNat ∧ Holds (payloadBound [0, 0, 0, 1]) 0 (List.replicate 3 false ++ [true]) := by
  unfold Holds; decide
theorem witness_ScannerIsExact_high :
    payloadProfile.minZ.toNat ≤ 4 ∧ 1 ≤ 1 ∧ 1 ≠ payloadProfile.hRun.toNat ∧
      Holds (payloadBound [0, 0, 0, 0, 1, 0]) 0 (List.replicate 4 false ++ List.replicate 1 true ++ [false]) := by
  unfold Holds; decide
theorem witness_ScannerIsExact_low :
    payloadProfile.minZ.toNat ≤ 4 ∧ 1 ≤ payloadProfile.hRun.toNat ∧ 1 ≠ payloadProfile.lRun.toNat ∧
      Holds (payloadBound [0, 0, 0, 0, 1, 1, 0, 1]) 0 (syncMark 4 payloadProfile.hRun.toNat 1) := by
  unfold Holds; decide
theorem witness_ScanFindsMarkAtIndex :
    (payloadBound payloadMark).params.scan.get (payloadBound payloadMark).ctrl.ssel = payloadProfile ∧
      payloadProfile.minZ.toNat ≤ 4 ∧ 1 ≤ payloadProfile.hRun.toNat ∧ 1 ≤ payloadProfile.lRun.toNat ∧
      Holds (payloadBound payloadMark) (payloadBound payloadMark).idx.toNat
        (syncMark 4 payloadProfile.hRun.toNat payloadProfile.lRun.toNat) := by
  refine ⟨rfl, by decide, by decide, by decide, ?_⟩
  unfold Holds; decide
theorem witness_ScanIsHostLoop :
    exec .srst (payloadBound payloadMark) = .next (returned 0 (payloadBound payloadMark)) ∧
    (hostScan 10 (returned 0 (payloadBound payloadMark))).2 = true ∧
    (hostScan 1 (returned 0 (payloadBound []))).2 = false := by
  refine ⟨rfl, ?_⟩
  decide
/-- The mark with and without a further 0, and a fault at the first and at the last position. -/
theorem witness_RmarkMatchesExactly :
    (Holds (bound [1, 0, 0, 0, 1]) 0 (true :: List.replicate 3 false) ∧ symAt (bound [1, 0, 0, 0, 1]) 4 ≠ some 0) ∧
    (Holds (bound [1, 0, 0, 0, 0]) 0 (true :: List.replicate 3 false) ∧ symAt (bound [1, 0, 0, 0, 0]) 4 = some 0) ∧
    symAt (bound []) 0 ≠ some (symbol (0 == 0)) ∧
    (∀ j < 3, symAt (bound [1, 0, 0]) (0 + j) = some (symbol (j == 0))) ∧
    symAt (bound [1, 0, 0]) 3 ≠ some (symbol (3 == 0)) := by
  unfold Holds; decide
theorem witness_EmittedMarkIsFound :
    fresh.params.wf1At .header = true ∧ fresh.params.wf2At fresh.ctrl.psel .header = true ∧ fresh.ctrl.omode = .bits ∧
      markBits fresh.params fresh.ctrl.psel .header < 2 ^ 24 := by decide
theorem witness_PcmRendersTheBits :
    (∀ i ∈ [Instr.fwr 0xA5, .psel .fast, .fwck], i ≠ .rst ∧ ∀ m, i ≠ .omode m) ∧ fresh.ctrl.omode = .bits := by
  refine ⟨?_, rfl⟩
  intro i hi
  simp only [List.mem_cons, List.not_mem_nil, or_false] at hi
  rcases hi with rfl | rfl | rfl <;> simp
theorem witness_RecordingLength : (List.replicate 128 (0 : Byte)).length = 128 := List.length_replicate
theorem witness_WriteSideNeverFails :
    Instr.nop ≠ .frd ∧ (∀ n, Instr.nop ≠ .frdn n) ∧ Instr.nop ≠ .frck ∧ Instr.nop ≠ .sstep ∧ Instr.nop ≠ .scan ∧
      Instr.nop ≠ .rmark := by simp
theorem witness_FailuresLatch :
    (∃ t, exec .frd fresh = .next t ∧ isOk (latest t) = false) ∧ ∃ t, exec .nop fresh = .next t ∧ isOk (latest t) = true :=
  ⟨⟨_, rfl, by decide⟩, _, rfl, by decide⟩
theorem witness_RegisterWriters : ∃ t, exec (.setidx 0xFFFFFF) fresh = .next t ∧ Instr.setidx 0xFFFFFF ≠ .rst :=
  ⟨_, rfl, by decide⟩
theorem witness_StreamsOnlyGrow : ∃ t, exec (.fwr 0xA5) fresh = .next t ∧ Instr.fwr 0xA5 ≠ .rst := ⟨_, rfl, by decide⟩
theorem witness_IndexStaysInsideInput : ∃ t, exec .frd (bound frameA5) = .next t ∧ t.idx.toNat = 9 := ⟨_, rfl, rfl⟩
theorem witness_CommandsNeverStopTheMachine :
    { fresh with inbox := [.command 0xFF000000] }.inbox = .command 0xFF000000 :: [] := rfl
theorem witness_StepKeepsInvariant :
    Inv { fresh with inbox := [.command 0x100000A5] } ∧
      ∃ t, step { fresh with inbox := [.command 0x100000A5] } = .next t ∧ t.obits.length = 9 := by
  refine ⟨⟨rfl, ?_, ?_, ?_, ?_⟩, _, rfl, rfl⟩ <;> simp [fresh, State.reset, Stat.reset]

/-- A header with a 4-character name. -/
def sampleHeader : Header :=
  ⟨1, [0x54, 0x45, 0x53, 0x54, 0x0D] ++ List.replicate 12 0, 0x0010, 0x1500, 0x1500, List.replicate 104 0⟩

theorem witness_HeaderLayoutRoundTrip : sampleHeader.wf = true := by decide
theorem witness_HeaderChecksumNeverWraps : (headerBytes .little sampleHeader).length = 128 := by
  simp [headerBytes, sampleHeader, fieldBytes]
/-- S6: the header checksum of the concrete scenario is 24. -/
theorem test_header_checksum : recordChecksum (headerBytes .little sampleHeader) = 0x0018 := by
  set_option maxRecDepth 4000 in decide
theorem witness_NameBoundary :
    ((List.replicate 16 (0x41 : Byte)).length ≤ 16 ∧ (0x0D : Byte) ∉ List.replicate 16 (0x41 : Byte)) ∧
      16 < (List.replicate 17 (0x41 : Byte)).length := by decide
theorem witness_HeaderChoice : ([1] : List Byte) ≠ [2] ∧ (2 : Half) ≠ 3 := by decide
theorem witness_PayloadDecodesFromBits :
    ([0xA5] : List Byte).length ≤ 65535 ∧ fresh.stat.flt = false ∧
      ([0, 0] ++ (([0xA5] : List Byte).flatMap frameBits ++ frameBits (highByte (recordChecksum [0xA5])) ++
        frameBits (lowByte (recordChecksum [0xA5]))).map symbol ++ [1]).length < 2 ^ 24 := by decide
theorem witness_HeaderDecodesFromBits :
    sampleHeader.wf = true ∧ fresh.stat.flt = false ∧ (headerBytes .little sampleHeader).length * 9 + 18 < 2 ^ 24 := by
  refine ⟨by decide, rfl, ?_⟩
  simp [headerBytes, sampleHeader, fieldBytes]
/-- R179: a record behind two symbols, decoded from its index; with IDX elsewhere before. -/
theorem test_payload_from_bits :
    (match decodePayloadFromBits ([0, 1] ++ frameA5 ++ [1, 0, 0, 0, 0, 0, 0, 0, 0] ++ [1, 0, 0, 0, 0, 0, 1, 0, 0]) 2 1
        { fresh with idx := 40 } with
      | .ok (c, t) => (c, t.idx.toNat)
      | .error _ => (⟨[], 0, none⟩, 0)) = (⟨[0xA5], 4, none⟩, 29) := by decide
/-- R185: the index of a failure that ended the fallback is that of the copy. -/
theorem test_failure_index :
    (HostError.payloadUnrecoverable 0x30000013 0x30000032).index = some 50 ∧
    (HostError.headerMismatch none none).index = none := by decide
/-- R186: a size of 4 bytes, least significant first. -/
theorem test_size_field : u32le 0x01020304 = [4, 3, 2, 1] := by decide
theorem witness_TapeFileRoundTrip :
    (Recording.mk sampleHeader (List.replicate 16 0)).payload.length = sampleHeader.fileLength.toNat := by decide

end Sys2Proof.Tests
end

section
/-! SUPPORT. How an accepted command ends and what it may change before that, said once over all commands: the state a
command works its way to (`Worked`), then the result word, `OK` or a failure (`Ends`). -/

namespace Sys2Proof.Proofs

open Sys2Proof.Machine Sys2Proof.Spec

/-! ### Result words -/

/-- The fields of a result word at their positions (30_encoding.md R82). -/
theorem resultWord_toNat (code : BitVec 4) (value : Count) :
    (resultWord code value).toNat = code.toNat * 2 ^ 28 + value.toNat := by
  rw [resultWord, BitVec.toNat_append, BitVec.toNat_append, ← Nat.shiftLeft_add_eq_or_of_lt value.isLt]
  simp only [BitVec.ofNat_eq_ofNat, BitVec.toNat_ofNat, Nat.zero_mod, Nat.or_zero, Nat.shiftLeft_eq]
  omega

/-- A result word is `OK` exactly when its code is 0. -/
theorem isOk_resultWord (code : BitVec 4) (value : Count) : isOk (resultWord code value) = true ↔ code = 0 := by
  have hvalue := value.isLt
  have hcode : code = 0 ↔ code.toNat = 0 := BitVec.toNat_inj.symm
  rw [isOk, decide_eq_true_eq, resultWord_toNat, hcode]
  omega

@[simp] theorem latest_ok (v : Count) (s : State) : latest (ok v s) = resultWord 0 v := by
  simp [latest]

theorem latest_raise (k : Kind) (e : Count) (s : State) (hk : k ≠ .illegalCommand) :
    latest (raise k e s) = resultWord k.code e := by
  simp [latest, raise_results s k e hk]

theorem code_ne_zero (k : Kind) : k.code ≠ 0 := by cases k <;> decide

theorem isOk_latest_raise (k : Kind) (e : Count) (s : State) (hk : k ≠ .illegalCommand) :
    isOk (latest (raise k e s)) = false := by
  rw [latest_raise k e s hk, Bool.eq_false_iff, Ne, isOk_resultWord]
  exact code_ne_zero k

/-! ### How a command ends -/

/-- The last act of an accepted command, from the state `u` its work left: `OK`, or a failure of 60_exceptions.md R204. -/
inductive Ends (u : State) : State → Prop
  | ok (v : Count) : Ends u (ok v u)
  | fails (k : Kind) (e : Count) (hk : k ≠ .illegalCommand) : Ends u (raise k e u)

section Ends

variable {u t : State}

/-! An end changes STAT.ERR, EIDX and the results alone. -/

theorem Ends.params (h : Ends u t) : t.params = u.params := by cases h <;> simp
theorem Ends.ctrl (h : Ends u t) : t.ctrl = u.ctrl := by cases h <;> simp
theorem Ends.sst (h : Ends u t) : t.stat.sst = u.stat.sst := by cases h <;> simp
theorem Ends.flt (h : Ends u t) : t.stat.flt = u.stat.flt := by
  cases h with
  | ok v => rfl
  | fails k e hk => simp [raise_flt, hk]
theorem Ends.cks (h : Ends u t) : t.cks = u.cks := by cases h <;> simp
theorem Ends.idx (h : Ends u t) : t.idx = u.idx := by cases h <;> simp
theorem Ends.run (h : Ends u t) : t.run = u.run := by cases h <;> simp
theorem Ends.data (h : Ends u t) : t.data = u.data := by cases h <;> simp
theorem Ends.len (h : Ends u t) : t.len = u.len := by cases h <;> simp
theorem Ends.bits (h : Ends u t) : t.bits = u.bits := by cases h <;> simp
theorem Ends.obits (h : Ends u t) : t.obits = u.obits := by cases h <;> simp
theorem Ends.samples (h : Ends u t) : t.samples = u.samples := by cases h <;> simp
theorem Ends.rbuf (h : Ends u t) : t.rbuf = u.rbuf := by cases h <;> simp
theorem Ends.inbox (h : Ends u t) : t.inbox = u.inbox := by cases h <;> simp
theorem Ends.free (h : Ends u t) : t.free = u.free := by cases h <;> simp

/-- `OK` latches nothing (60_exceptions.md R204). -/
theorem Ends.latch_of_isOk (h : Ends u t) (hok : isOk (latest t) = true) :
    t.stat.err = u.stat.err ∧ t.eidx = u.eidx := by
  cases h with
  | ok v => exact ⟨rfl, rfl⟩
  | fails k e hk => simp [isOk_latest_raise k e u hk] at hok

end Ends

/-! ### What a command works on -/

/-- `u` is a state that the work of command `i`, done from `s`, may leave before the result is delivered. -/
def Worked (i : Instr) (s u : State) : Prop :=
  match i with
  | .nop | .getr _ => u = s
  | .rst => u = softReset s
  | .setidx n => u = { s with idx := n }
  | .ckclr => u = { s with cks := 0 }
  | .fwr v => u = tally v (emit (frame v) s)
  | .fwck | .emitb _ | .gap _ | .mark _ | .rpt => ∃ q, u = emit q s
  | .frd | .frdn _ => ∃ c d n bytes, u = { s with cks := c, data := d, idx := n, rbuf := s.rbuf ++ bytes }
  | .frck => ∃ d n, u = { s with data := d, idx := n }
  | .rmark => ∃ n, u = { s with idx := n }
  | .srst => u = scannerReset s
  | .sstep | .scan =>
    ∃ x r n e f, u = { s with stat := ⟨x, s.stat.flt, s.stat.err⟩, run := r, idx := n, eidx := e, free := f }
  | .ssel sec => u = { s with ctrl := { s.ctrl with ssel := sec } }
  | .omode m => u = { s with ctrl := { s.ctrl with omode := m } }
  | .psel p => u = { s with ctrl := { s.ctrl with psel := p } }

/-- `exec i s` answers a state that the command's work and its end lead to. -/
def Effect (i : Instr) (s : State) : Prop := ∃ u t, exec i s = .next t ∧ Worked i s u ∧ Ends u t

/-- The effect of a command that always answers `OK`. -/
theorem Effect.of_ok {i : Instr} {s u : State} {v : Count} (h : exec i s = .next (ok v u)) (hu : Worked i s u) :
    Effect i s :=
  ⟨u, _, h, hu, .ok v⟩

/-- The effect of a command that fails. -/
theorem Effect.of_raise {i : Instr} {s u : State} {k : Kind} {e : Count} (h : exec i s = .next (raise k e u))
    (hk : k ≠ .illegalCommand) (hu : Worked i s u) : Effect i s :=
  ⟨u, _, h, hu, .fails k e hk⟩

/-- A frame's failure is never `IllegalCommand`, in a stored checksum either. -/
theorem readStored_error_kind {s : State} {base : Nat} {e : FrameFailure} (h : readStored s base = .error e) :
    e.kind ≠ .illegalCommand := by
  unfold readStored at h
  split at h
  · rename_i hhi
    cases h
    exact readFrame_error_kind hhi
  · split at h
    · rename_i hlo
      cases h
      exact readFrame_error_kind hlo
    · cases h

/-- Nor in a run of frames. -/
theorem readFrames_error_kind {n : Nat} {s t : State} {e : FrameFailure} (h : readFrames n s = (t, some e)) :
    e.kind ≠ .illegalCommand := by
  induction n generalizing s with
  | zero => cases h
  | succ n ih =>
    unfold readFrames at h
    split at h
    · rename_i herr
      cases h
      exact readFrame_error_kind herr
    · exact ih h

theorem frd_effect (s : State) : Effect .frd s := by
  rcases execFrd_cases s with ⟨e, herr, h⟩ | ⟨v, -, h⟩
  · exact .of_raise h (readFrame_error_kind herr) ⟨s.cks, s.data, s.idx, [], by simp⟩
  · exact .of_ok h ⟨_, _, _, [v], rfl⟩

theorem frdn_effect (n : Half) (s : State) : Effect (.frdn n) s := by
  obtain ⟨bytes, hframe⟩ := readFrames_frame n.toNat s
  have hwork : Worked (.frdn n) s (readFrames n.toNat s).1 := ⟨_, _, _, bytes, hframe⟩
  rcases execFrdn_cases n s with ⟨t, e, hread, h⟩ | ⟨t, hread, h⟩ <;> rw [hread] at hwork
  · exact .of_raise h (readFrames_error_kind hread) hwork
  · exact .of_ok h hwork

theorem frck_effect (s : State) : Effect .frck s := by
  rcases execFrck_cases s with ⟨e, herr, h⟩ | ⟨v, -, -, h⟩ | ⟨v, -, -, h⟩
  · exact .of_raise h (readStored_error_kind herr) ⟨s.data, s.idx, rfl⟩
  · exact .of_ok h ⟨_, _, rfl⟩
  · exact .of_raise h (by decide) ⟨_, _, rfl⟩

theorem sstep_effect (s : State) : Effect .sstep s := by
  have hstay : Worked .sstep s s := ⟨s.stat.sst, s.run, s.idx, s.eidx, s.free, rfl⟩
  rcases execSstep_cases s with ⟨-, h⟩ | ⟨-, -, -, h⟩ | ⟨b, -, -, -, h⟩
  · exact .of_ok h hstay
  · exact .of_raise h (by decide) hstay
  · exact .of_ok h ⟨_, _, _, _, _, scanSymbol_frame b s⟩

theorem scan_effect (s : State) : Effect .scan s := by
  obtain ⟨t, ⟨x, r, n, e, f, ht⟩, hend⟩ := scanLoop_cases (s.len.toNat - s.idx.toNat) (scannerReset s)
  rcases hend with ⟨-, h⟩ | ⟨-, h⟩
  · exact .of_ok (congrArg _ h) ⟨x, r, n, e, f, ht⟩
  · refine .of_raise (congrArg _ h) (by decide) ⟨(restart t).stat.sst, (restart t).run, n, e, f, ?_⟩
    rw [restart_frame, ht]
    rfl

theorem rmark_effect (s : State) : Effect .rmark s := by
  rcases execRmark_cases s with ⟨e, -, h⟩ | ⟨-, h⟩
  · exact .of_raise h (by decide) ⟨s.idx, rfl⟩
  · exact .of_ok h ⟨_, rfl⟩

/-- Every command completes, with its work and its end. The reading commands are the ones that may fail. -/
theorem exec_effect (i : Instr) (s : State) : Effect i s := by
  cases i with
  | frd => exact frd_effect s
  | frdn n => exact frdn_effect n s
  | frck => exact frck_effect s
  | sstep => exact sstep_effect s
  | scan => exact scan_effect s
  | rmark => exact rmark_effect s
  | fwck | emitb | gap | mark | rpt => exact .of_ok rfl ⟨_, rfl⟩
  | nop | rst | getr | setidx | fwr | ckclr | ssel | srst | omode | psel => exact .of_ok rfl rfl

/-- What an answer of `exec` tells about the command. -/
theorem worked_ends_of_exec {i : Instr} {s t : State} (h : exec i s = .next t) : ∃ u, Worked i s u ∧ Ends u t := by
  obtain ⟨u, t', h', hwork, hend⟩ := exec_effect i s
  obtain rfl : t' = t := by simpa [h'] using h
  exact ⟨u, hwork, hend⟩

end Sys2Proof.Proofs
end

section
/-! SUPPORT. IDX under the reading commands (10_state.md R22): each moves it forward over symbols that lie inside the
input, so it neither wraps nor passes LEN. -/

namespace Sys2Proof.Proofs

open Sys2Proof.Machine Sys2Proof.Spec

/-- IDX has not moved back from `s` to `t`, nor past LEN if it was not past it before. -/
def IdxAdvances (s t : State) : Prop := s.idx.toNat ≤ t.idx.toNat ∧ t.idx.toNat ≤ max s.idx.toNat s.len.toNat

section IdxAdvances

variable {s t u : State}

theorem IdxAdvances.of_idx_eq (h : t.idx = s.idx) : IdxAdvances s t := by simp [IdxAdvances, h]

/-- Moving over `n` symbols of the input does not wrap. -/
theorem IdxAdvances.of_idx_add {n : Count} (h : t.idx = s.idx + n) (hn : s.idx.toNat + n.toNat ≤ s.len.toNat) :
    IdxAdvances s t := by
  have hlen := s.len.isLt
  have hadd : t.idx.toNat = s.idx.toNat + n.toNat := by rw [h, BitVec.toNat_add_of_lt (by omega)]
  unfold IdxAdvances
  omega

theorem IdxAdvances.trans (hsu : IdxAdvances s u) (hlen : u.len = s.len) (hut : IdxAdvances u t) :
    IdxAdvances s t := by
  unfold IdxAdvances at *
  rw [hlen] at hut
  omega

/-- `IdxAdvances` is about IDX and LEN alone. -/
theorem IdxAdvances.congr (h : IdxAdvances s u) (hidx : t.idx = u.idx) : IdxAdvances s t := by
  rwa [IdxAdvances, hidx]

end IdxAdvances

theorem frd_idxAdvances {s t : State} (h : exec .frd s = .next t) : IdxAdvances s t := by
  rcases execFrd_cases s with ⟨e, -, h'⟩ | ⟨v, hread, h'⟩ <;> obtain rfl := Host.Outcome.next.inj (h.symm.trans h')
  · exact .of_idx_eq (by simp [raiseFrame])
  · exact .of_idx_add (n := 9) rfl (readFrame_ok hread).1

theorem readFrames_idxAdvances (n : Nat) (s : State) : IdxAdvances s (readFrames n s).1 := by
  induction n generalizing s with
  | zero => exact .of_idx_eq rfl
  | succ n ih =>
    unfold readFrames
    split
    · exact .of_idx_eq rfl
    · rename_i v hread
      have hbyte : IdxAdvances s (takeByte v s) := .of_idx_add (takeByte_idx s v) (readFrame_ok hread).1
      exact hbyte.trans (takeByte_len s v) (ih (takeByte v s))

theorem frdn_idxAdvances {n : Half} {s t : State} (h : exec (.frdn n) s = .next t) : IdxAdvances s t := by
  have hread := readFrames_idxAdvances n.toNat s
  rcases execFrdn_cases n s with ⟨u, e, hu, h'⟩ | ⟨u, hu, h'⟩ <;>
    obtain rfl := Host.Outcome.next.inj (h.symm.trans h') <;> rw [hu] at hread
  · exact hread.congr (by simp [raiseFrame])
  · exact hread.congr (by simp)

theorem frck_idxAdvances {s t : State} (h : exec .frck s = .next t) : IdxAdvances s t := by
  rcases execFrck_cases s with ⟨e, -, h'⟩ | ⟨v, hread, -, h'⟩ | ⟨v, hread, -, h'⟩ <;>
    obtain rfl := Host.Outcome.next.inj (h.symm.trans h')
  · exact .of_idx_eq (by simp [raiseFrame])
  · exact .of_idx_add (n := 18) (by simp) (readStored_ok hread).1
  · exact .of_idx_add (n := 18) (by simp) (readStored_ok hread).1

@[simp] theorem scanSymbol_idx (b : Byte) (s : State) : (scanSymbol b s).idx = s.idx + 1 := by rw [scanSymbol_frame]
@[simp] theorem scanSymbol_len (b : Byte) (s : State) : (scanSymbol b s).len = s.len := by rw [scanSymbol_frame]
@[simp] theorem restart_idx (s : State) : (restart s).idx = s.idx := by rw [restart_frame]
theorem restart_bits (s : State) : (restart s).bits = s.bits := by rw [restart_frame]
@[simp] theorem restart_len (s : State) : (restart s).len = s.len := by rw [restart_frame]

/-- A transition on a symbol of the input moves IDX inside it. -/
theorem scanSymbol_idxAdvances {s : State} {x : Byte} (b : Byte) (hx : symAt s s.idx.toNat = some x) :
    IdxAdvances s (scanSymbol b s) :=
  .of_idx_add (scanSymbol_idx b s) (symAt_eq_some.mp hx).1

theorem sstep_idxAdvances {s t : State} (h : exec .sstep s = .next t) : IdxAdvances s t := by
  rcases execSstep_cases s with ⟨-, h'⟩ | ⟨-, -, -, h'⟩ | ⟨b, -, -, hb, h'⟩ <;>
    obtain rfl := Host.Outcome.next.inj (h.symm.trans h')
  · exact .of_idx_eq rfl
  · exact .of_idx_eq (by simp)
  · exact (scanSymbol_idxAdvances b hb).congr (by simp)

theorem scanLoop_idxAdvances (n : Nat) (s : State) : IdxAdvances s (scanLoop n s) := by
  induction n generalizing s with
  | zero => exact .of_idx_eq (by unfold scanLoop; split <;> simp)
  | succ n ih =>
    unfold scanLoop
    split
    · exact .of_idx_eq rfl
    · split
      · exact .of_idx_eq (by simp)
      · rename_i b hb
        have hrestart : IdxAdvances s (restart s) := .of_idx_eq (restart_idx s)
        have hsymbol : IdxAdvances (restart s) (scanSymbol b (restart s)) := by
          refine scanSymbol_idxAdvances b (x := b) ?_
          rwa [restart_idx, symAt_congr (restart_bits s) (restart_len s)]
        exact (hrestart.trans (restart_len s) hsymbol).trans (by simp) (ih _)

theorem scan_idxAdvances {s t : State} (h : exec .scan s = .next t) : IdxAdvances s t := by
  obtain rfl := Host.Outcome.next.inj h
  exact scanLoop_idxAdvances _ (scannerReset s)

/-- A repeat mark that was matched lies inside the input. -/
theorem repeatMarkFault_none_le {s : State} {pos n : Nat} (h : repeatMarkFault s pos n = none) :
    pos + n + 1 ≤ s.len.toNat := by
  obtain ⟨hone, hzeros, -⟩ := repeatMarkFault_none h
  cases n with
  | zero => exact (symAt_eq_some.mp hone).1
  | succ n =>
    have hlast := (symAt_eq_some.mp (hzeros n (Nat.lt_succ_self n))).1
    omega

theorem rmark_idxAdvances {s t : State} (h : exec .rmark s = .next t) : IdxAdvances s t := by
  rcases execRmark_cases s with ⟨e, -, h'⟩ | ⟨hnone, h'⟩ <;> obtain rfl := Host.Outcome.next.inj (h.symm.trans h')
  · exact .of_idx_eq (by simp)
  · have hle := repeatMarkFault_none_le hnone
    have hlen := s.len.isLt
    refine .of_idx_add (n := s.params.rptZeros + 1) (BitVec.add_assoc ..) ?_
    rw [BitVec.toNat_add_of_lt] <;> simp <;> omega

end Sys2Proof.Proofs
end

section
/-! The obligations of 10_state.md: bindings, the writers of each register, the bounds of IDX, and the reset state. -/

namespace Sys2Proof.Proofs

open Sys2Proof.Machine Sys2Proof.Spec

/-- Settles O49: the streams are empty, the fault bit is clear and nothing has been delivered. -/
theorem resetHasInvariant : Obligations.ResetHasInvariant where
  cells := reset_wf
  obits := by simp [State.reset]
  samples := by simp [State.reset]
  fault := by simp [State.reset, Stat.reset]
  results := by simp [State.reset]

/-- A step takes the host action at the head of the inbox. -/
theorem step_of_inbox {s : State} {e : HostEvent} {rest : List HostEvent} (h : s.inbox = e :: rest) :
    step s = hostAction e { s with inbox := rest } := by
  simp [step, serveNext, h]

theorem bindable_iff (q : List Byte) : bindable q = true ↔ q.length < 2 ^ 24 := by simp [bindable]

theorem hostAction_bind_fits {q : List Byte} (s : State) (h : bindable q = true) :
    hostAction (.bind q) s = .next (bindInput q s) := by
  simp [hostAction, h]

theorem hostAction_bind_tooLong {q : List Byte} (s : State) (h : ¬ bindable q = true) :
    hostAction (.bind q) s = .fault .inputTooLong := by
  simp [hostAction, h]

/-- Settles O8: the step is the binding itself, which reads back as the sequence (`symAt_bindInput`). -/
theorem bindingReplacesInput : Obligations.BindingReplacesInput := by
  refine ⟨fun s q rest hinbox hq => ?_, fun s q rest hinbox hq => ?_⟩
  · have hfits : bindable q = true := (bindable_iff q).mpr hq
    refine ⟨bindInput q { s with inbox := rest }, ?_, ?_, symAt_bindInput _ hfits, rfl⟩
    · rw [step_of_inbox hinbox, hostAction_bind_fits _ hfits]
    · rw [bindInput_len, BitVec.toNat_ofNat, Nat.mod_eq_of_lt hq]
  · have hlong : ¬ bindable q = true := by rw [bindable_iff]; omega
    rw [step_of_inbox hinbox, hostAction_bind_tooLong _ hlong]

/-- Settles O44: the registers a command's work may change (`Worked`), then what its end may latch (`Ends`). -/
theorem registerWriters : Obligations.RegisterWriters := by
  intro s t i h hrst
  obtain ⟨u, hwork, hend⟩ := worked_ends_of_exec h
  have herr (hok : isOk (latest t) = true) : t.stat.err = u.stat.err := (hend.latch_of_isOk hok).1
  have heidx (hok : isOk (latest t) = true) : t.eidx = u.eidx := (hend.latch_of_isOk hok).2
  simp only [hend.params, hend.ctrl, hend.sst, hend.flt, hend.cks, hend.idx, hend.run, hend.data, hend.len,
    hend.inbox]
  clear h hend
  cases i with
  | rst => exact absurd rfl hrst
  | frd | frdn n =>
    obtain ⟨c, d, n, bytes, rfl⟩ := hwork
    simp +contextual [herr, heidx]
  | frck =>
    obtain ⟨d, n, rfl⟩ := hwork
    simp +contextual [herr, heidx]
  | rmark =>
    obtain ⟨n, rfl⟩ := hwork
    simp +contextual [herr, heidx]
  | sstep | scan =>
    obtain ⟨x, r, n, e, f, rfl⟩ := hwork
    simp +contextual [herr]
  | fwck | emitb | gap | mark | rpt =>
    obtain ⟨q, rfl⟩ := hwork
    simp +contextual [herr, heidx]
  | nop | getr | setidx | fwr | ckclr | ssel | srst | omode | psel =>
    obtain rfl := hwork
    simp +contextual [herr, heidx]

/-- Settles O46: the six reading commands move IDX inside the input; of the others only `SETIDX` and `RST` write it. -/
theorem indexStaysInsideInput : Obligations.IndexStaysInsideInput := by
  intro s t i h hsetidx hrst
  obtain ⟨-, -, -, -, -, -, -, -, -, -, -, hkeeps, -⟩ := registerWriters s t i h hrst
  change IdxAdvances s t
  cases i with
  | frd => exact frd_idxAdvances h
  | frdn n => exact frdn_idxAdvances h
  | frck => exact frck_idxAdvances h
  | sstep => exact sstep_idxAdvances h
  | scan => exact scan_idxAdvances h
  | rmark => exact rmark_idxAdvances h
  | setidx n => exact absurd rfl (hsetidx n)
  | _ => exact .of_idx_eq (by simpa using hkeeps)

end Sys2Proof.Proofs
end

section
/-! SUPPORT. The invariant of Safety.lean under each shared operation: the output stage, the resets, a binding, a result
word and a failure; then under the work of every command. -/

namespace Sys2Proof.Proofs

open Sys2Proof.Machine Sys2Proof.Spec

/-! ### Well-formed result words -/

/-- Bits 27:24 of a result word are 0 and its code is at most 8, as `Inv` asks (30_encoding.md R82). -/
theorem resultWord_wf {code : BitVec 4} (hcode : code.toNat ≤ 8) (value : Count) :
    (resultWord code value).extractLsb' 24 4 = 0 ∧ (resultWord code value).toNat / 2 ^ 28 ≤ 8 := by
  have hvalue := value.isLt
  refine ⟨BitVec.eq_of_toNat_eq ?_, ?_⟩
  · rw [BitVec.extractLsb'_toNat, resultWord_toNat, Nat.shiftRight_eq_div_pow]
    simp only [BitVec.ofNat_eq_ofNat, BitVec.toNat_ofNat]
    omega
  · rw [resultWord_toNat]
    omega

theorem code_toNat_le (k : Kind) : k.code.toNat ≤ 8 := by cases k <;> decide

/-- Every failure delivers one result word with its kind's code, `IllegalCommand` too. -/
theorem raise_delivers (k : Kind) (e : Count) (s : State) :
    ∃ v, (raise k e s).results = s.results ++ [resultWord k.code v] := by
  cases k <;> exact ⟨_, rfl⟩

/-! ### What the output stage appends -/

theorem bitSymbol_eq_zero_or_one (b : Bool) : bitSymbol b = 0 ∨ bitSymbol b = 1 := by cases b <;> simp [bitSymbol]

/-- A rendered bit has the two levels only, whatever its lengths (42_output.md R141). -/
theorem level_of_mem_render {p : Params} {t : PulseTable} {b : Bool} {x : Byte} (h : x ∈ render p t b) :
    x = p.lvlLow ∨ x = p.lvlHigh := by
  rw [render, List.mem_append] at h
  exact h.imp List.eq_of_mem_replicate List.eq_of_mem_replicate

/-! ### The invariant under each operation -/

section Inv

variable {s : State}

theorem emit_inv (h : Inv s) (q : List Bool) : Inv (emit q s) where
  cells := (emit_wf q s).trans h.cells
  obits := by
    rw [emit_obits]
    split
    · refine List.forall_mem_append.mpr ⟨h.obits, List.forall_mem_map.mpr fun b _ => ?_⟩
      exact bitSymbol_eq_zero_or_one b
    · exact h.obits
  samples := by
    rw [emit_samples, emit_params]
    split
    · exact h.samples
    · refine List.forall_mem_append.mpr ⟨h.samples, fun x hx => ?_⟩
      obtain ⟨b, -, hb⟩ := List.mem_flatMap.mp hx
      exact level_of_mem_render hb
  fault := by simpa using h.fault
  results := by simpa using h.results

theorem softReset_inv (h : Inv s) : Inv (softReset s) :=
  { h with obits := by simp, samples := by simp, fault := by simp [Stat.reset] }

/-- What the host has yet to do is no part of the invariant. -/
theorem inbox_inv (h : Inv s) (rest : List HostEvent) : Inv { s with inbox := rest } := { h with }

theorem powerOnReset_inv (h : Inv s) : Inv (powerOnReset s) := { softReset_inv h with cells := powerOnReset_wf s }

theorem bindInput_inv (h : Inv s) {q : List Byte} (hq : bindable q = true) : Inv (bindInput q s) :=
  { h with cells := bindInput_wf q s hq }

theorem ok_inv (h : Inv s) (v : Count) : Inv (ok v s) :=
  { h with results := List.forall_mem_append.mpr ⟨h.results, by simpa using resultWord_wf (code := 0) (by decide) v⟩ }

/-- A failure keeps the invariant unless it overwrites the `IllegalCommand` of a set fault bit. -/
theorem raise_inv (h : Inv s) {k : Kind} (e : Count) (hk : s.stat.flt = true → k = .illegalCommand) :
    Inv (raise k e s) where
  cells := (raise_wf k e s).trans h.cells
  obits := by simpa using h.obits
  samples := by simpa using h.samples
  fault := by
    rw [raise_flt, Bool.or_eq_true, decide_eq_true_eq, raise_err]
    rintro (hflt | hill)
    · rw [hk hflt]
    · rw [hill]
  results := by
    obtain ⟨v, hv⟩ := raise_delivers k e s
    rw [hv]
    exact List.forall_mem_append.mpr ⟨h.results, by simpa using resultWord_wf (code_toNat_le k) v⟩

end Inv

/-! ### The invariant under a command -/

/-- The work of a command keeps the invariant: only the output commands and `RST` touch what it speaks of. -/
theorem Worked.inv {i : Instr} {s u : State} (hwork : Worked i s u) (h : Inv s) : Inv u := by
  cases i with
  | rst =>
    obtain rfl := hwork
    exact softReset_inv h
  | fwr v =>
    obtain rfl := hwork
    exact { emit_inv h (frame v) with }
  | fwck | emitb | gap | mark | rpt =>
    obtain ⟨q, rfl⟩ := hwork
    exact emit_inv h q
  | frd | frdn =>
    obtain ⟨c, d, n, bytes, rfl⟩ := hwork
    exact { h with }
  | frck =>
    obtain ⟨d, n, rfl⟩ := hwork
    exact { h with }
  | rmark =>
    obtain ⟨n, rfl⟩ := hwork
    exact { h with }
  | sstep | scan =>
    obtain ⟨x, r, n, e, f, rfl⟩ := hwork
    exact { h with }
  | nop | getr | setidx | ckclr | srst | ssel | omode | psel =>
    obtain rfl := hwork
    exact { h with }

/-- With the fault bit clear, the end of a command keeps the invariant. -/
theorem Ends.inv {u t : State} (hend : Ends u t) (h : Inv u) (hflt : u.stat.flt = false) : Inv t := by
  cases hend with
  | ok v => exact ok_inv h v
  | fails k e hk => exact raise_inv h e (by simp [hflt])

/-- `RST` clears the fault bit and no command sets it, so a command accepted as 60_exceptions.md R206 says ends with
the bit clear. -/
theorem Ends.flt_eq_false {i : Instr} {s u t : State} (hend : Ends u t) (h : exec i s = .next t)
    (hwork : Worked i s u) (haccepted : s.stat.flt = true → i = .rst) : u.stat.flt = false := by
  by_cases hrst : i = .rst
  · subst hrst
    obtain rfl := hwork
    rfl
  · obtain ⟨-, -, -, -, -, -, -, hkeeps, -⟩ := registerWriters s t i h hrst
    rw [← hend.flt, hkeeps]
    exact Bool.eq_false_iff.mpr fun hflt => hrst (haccepted hflt)

theorem exec_inv {i : Instr} {s t : State} (h : Inv s) (haccepted : s.stat.flt = true → i = .rst)
    (hexec : exec i s = .next t) : Inv t := by
  obtain ⟨u, hwork, hend⟩ := worked_ends_of_exec hexec
  exact hend.inv (hwork.inv h) (hend.flt_eq_false hexec hwork haccepted)

/-! ### The invariant under a host action -/

theorem decode_rstWord : decode rstWord = .ok .rst := rfl

/-- The decode procedure keeps the invariant: with the fault bit set it accepts `RST` alone. -/
theorem issueWord_inv {w : Word} {s t : State} (h : Inv s) (hissue : issueWord w s = .next t) : Inv t := by
  rcases issueWord_cases w s with ⟨-, -, h'⟩ | ⟨haccepted, ⟨i, hdecode, h'⟩ | ⟨e, -, h'⟩⟩ <;> rw [h'] at hissue
  · obtain rfl := Host.Outcome.next.inj hissue
    exact raise_inv h 0 fun _ => rfl
  · refine exec_inv h (fun hflt => ?_) hissue
    obtain rfl : w = rstWord := by_contra fun hw => haccepted ⟨hflt, hw⟩
    exact (Except.ok.inj (decode_rstWord.symm.trans hdecode)).symm
  · obtain rfl := Host.Outcome.next.inj hissue
    exact raise_inv h 0 fun _ => rfl

theorem hostAction_inv {e : HostEvent} {s t : State} (h : Inv s) (haction : hostAction e s = .next t) : Inv t := by
  cases e with
  | command w => exact issueWord_inv h haction
  | bind q =>
    by_cases hq : bindable q = true
    · obtain rfl := Host.Outcome.next.inj ((hostAction_bind_fits s hq).symm.trans haction)
      exact bindInput_inv h hq
    · rw [hostAction_bind_tooLong s hq] at haction
      cases haction
  | powerOn =>
    obtain rfl := Host.Outcome.next.inj haction
    exact powerOnReset_inv h

end Sys2Proof.Proofs
end

section
/-! SUPPORT. The streams under the output stage (42_output.md R140): it appends to the one that CTRL.OMODE selects. -/

namespace Sys2Proof.Proofs

open Sys2Proof.Machine Sys2Proof.Spec

variable (q : List Bool) (s : State)

@[simp] theorem emit_obits_grows : s.obits <+: (emit q s).obits := by
  rw [emit_obits]
  split <;> simp

@[simp] theorem emit_samples_grows : s.samples <+: (emit q s).samples := by
  rw [emit_samples]
  split <;> simp

theorem emit_samples_of_bits (h : s.ctrl.omode = .bits) : (emit q s).samples = s.samples := by simp [emit_samples, h]

theorem emit_obits_of_pcm (h : s.ctrl.omode = .pcm) : (emit q s).obits = s.obits := by simp [emit_obits, h]

end Sys2Proof.Proofs
end

section
/-! The obligations of 20_memory.md: every step keeps the invariant, and what the commands do to BITS and the streams. -/

namespace Sys2Proof.Proofs

open Sys2Proof.Machine Sys2Proof.Spec

/-- Settles O48: the block waits, or takes the next host action, which keeps the invariant (`hostAction_inv`). -/
theorem stepKeepsInvariant : Obligations.StepKeepsInvariant := by
  intro s t h hstep
  rcases step_cases s with ⟨-, h'⟩ | ⟨e, rest, -, h'⟩ <;> rw [h'] at hstep
  · obtain rfl := Host.Outcome.next.inj hstep
    exact h
  · exact hostAction_inv (inbox_inv h rest) hstep

/-- Settles O45: the streams a command's work may change (`Worked`); its end changes none (`Ends`). -/
theorem streamsOnlyGrow : Obligations.StreamsOnlyGrow := by
  intro s t i h
  obtain ⟨u, hwork, hend⟩ := worked_ends_of_exec h
  rw [hend.bits, hend.obits, hend.samples, hend.rbuf]
  clear h hend
  cases i with
  | rst =>
    obtain rfl := hwork
    simp
  | fwr v =>
    obtain rfl := hwork
    simp +contextual [emit_samples_of_bits, emit_obits_of_pcm]
  | fwck | emitb | gap | mark | rpt =>
    obtain ⟨q, rfl⟩ := hwork
    simp +contextual [emit_samples_of_bits, emit_obits_of_pcm]
  | frd | frdn =>
    obtain ⟨c, d, n, bytes, rfl⟩ := hwork
    simp
  | frck =>
    obtain ⟨d, n, rfl⟩ := hwork
    simp
  | rmark =>
    obtain ⟨n, rfl⟩ := hwork
    simp
  | sstep | scan =>
    obtain ⟨x, r, n, e, f, rfl⟩ := hwork
    simp
  | nop | getr | setidx | ckclr | srst | ssel | omode | psel =>
    obtain rfl := hwork
    simp

end Sys2Proof.Proofs
end

section
/-! SUPPORT. The fields of a command word (30_encoding.md R80) and the operand rule of R81, said once: when an immediate
is an operand of a given width, what `withOperand` and `noOperand` accept, and how a mask tests it (R83). -/

namespace Sys2Proof.Proofs

/-! ### The two fields of a word -/

@[simp] theorem opField_append (op : BitVec 8) (imm : Count) : opField (op ++ imm) = op :=
  BitVec.extractLsb'_append_eq_left

@[simp] theorem immField_append (op : BitVec 8) (imm : Count) : immField (op ++ imm) = imm :=
  BitVec.extractLsb'_append_eq_right

/-- A word is its opcode and its immediate, with no bit left over. -/
theorem opField_append_immField (c : Word) : opField c ++ immField c = c :=
  (BitVec.extractLsb'_append_extractLsb'_eq_extractLsb' rfl).trans BitVec.extractLsb'_eq_self

@[simp] theorem opField_encode (i : Instr) : opField (encode i) = opcodeOf i := opField_append ..

@[simp] theorem immField_encode (i : Instr) : immField (encode i) = immOf i := immField_append ..

/-- A word is the encoding of a command exactly when its two fields are the command's. -/
theorem encode_eq_iff (i : Instr) (c : Word) : encode i = c ↔ opcodeOf i = opField c ∧ immOf i = immField c := by
  constructor
  · rintro rfl
    simp
  · rintro ⟨hop, himm⟩
    rw [encode, hop, himm, opField_append_immField]

/-! ### Immediates that are operands -/

/-- A zero-extended operand has no bit at or above its width. -/
theorem setWidth_ushiftRight_eq_zero {w : Nat} (v : BitVec w) : v.setWidth 24 >>> w = 0 := by
  ext k hk
  simp

/-- An immediate without a bit at or above `w` is its own low `w` bits, zero-extended. -/
theorem setWidth_setWidth_of_ushiftRight_eq_zero {w : Nat} {imm : Count} (h : imm >>> w = 0) :
    (imm.setWidth w).setWidth 24 = imm := by
  ext k hk
  by_cases hkw : k < w
  · simp [hkw, BitVec.getLsbD_eq_getElem hk]
  · have hbit : (imm >>> w).getLsbD (k - w) = false := by simp [h]
    rw [BitVec.getLsbD_ushiftRight, Nat.add_sub_cancel' (Nat.le_of_not_lt hkw)] at hbit
    simp [hkw, ← BitVec.getLsbD_eq_getElem, hbit]

/-- Masking the bits from `w` up and shifting them down test the same bits (30_encoding.md R81, R83). -/
theorem and_highMask_eq_zero_iff (imm : Count) (w : Nat) :
    imm &&& (BitVec.allOnes 24 <<< w) = 0 ↔ imm >>> w = 0 := by
  rw [← BitVec.shiftLeft_ushiftRight]
  constructor
  · intro h
    ext k hk
    have hbit : (imm >>> w <<< w).getLsbD (w + k) = false := by rw [h]; exact BitVec.getLsbD_zero
    by_cases hlt : w + k < 24
    · simpa [hlt] using hbit
    · simp [BitVec.getLsbD_of_ge imm (w + k) (Nat.le_of_not_lt hlt)]
  · intro h
    rw [h]
    exact BitVec.zero_shiftLeft w

/-! ### The operand rule of the decoder -/

theorem withOperand_eq_ok_iff {w : Nat} {imm : Count} {f : BitVec w → Instr} {i : Instr} :
    withOperand w imm f = .ok i ↔ imm >>> w = 0 ∧ f (imm.setWidth w) = i := by
  unfold withOperand
  split <;> simp_all

theorem noOperand_eq_ok_iff {imm : Count} {j i : Instr} : noOperand imm j = .ok i ↔ imm = 0 ∧ j = i := by
  unfold noOperand
  split <;> simp_all

/-- An immediate that is an operand, zero-extended, is accepted and read whole. -/
theorem withOperand_eq_ok {w : Nat} {imm : Count} {f : BitVec w → Instr} {i : Instr} (v : BitVec w) (hw : w ≤ 24)
    (himm : v.setWidth 24 = imm) (hf : f v = i) : withOperand w imm f = .ok i := by
  subst himm
  refine withOperand_eq_ok_iff.mpr ⟨setWidth_ushiftRight_eq_zero v, ?_⟩
  rw [BitVec.setWidth_setWidth_of_le _ hw, BitVec.setWidth_eq, hf]

/-! ### The numbers that operands stand for -/

@[simp] theorem sectionOf_sectionBit (sec : Section) : sectionOf (sectionBit sec) = sec := by cases sec <;> rfl
@[simp] theorem profileOf_profileBit (p : PulseProfile) : profileOf (profileBit p) = p := by cases p <;> rfl
@[simp] theorem outModeOf_outModeBit (m : OutMode) : outModeOf (outModeBit m) = m := by cases m <;> rfl
@[simp] theorem regOf_regNumber (r : Reg) : regOf (regNumber r) = r := by cases r <;> rfl
@[simp] theorem decide_ofBool_eq_one (b : Bool) : decide (BitVec.ofBool b = 1#1) = b := by cases b <;> rfl

@[simp] theorem sectionBit_sectionOf (b : BitVec 1) : sectionBit (sectionOf b) = b := by revert b; decide
@[simp] theorem profileBit_profileOf (b : BitVec 1) : profileBit (profileOf b) = b := by revert b; decide
@[simp] theorem outModeBit_outModeOf (b : BitVec 1) : outModeBit (outModeOf b) = b := by revert b; decide
@[simp] theorem regNumber_regOf (n : BitVec 3) : regNumber (regOf n) = n := by revert n; decide
@[simp] theorem ofBool_decide_eq_one (b : BitVec 1) : BitVec.ofBool (decide (b = 1#1)) = b := by revert b; decide

end Sys2Proof.Proofs
end

section
/-! The round trip of 30_encoding.md R80 to R85: decoding and encoding are inverse to each other. -/

namespace Sys2Proof.Proofs

/-- Settles O1: the opcode selects the command's own arm of the decoder, which accepts the operand whole. -/
theorem encodedCommandDecodesToItself : Obligations.EncodedCommandDecodesToItself := by
  intro i
  unfold decode
  rw [opField_encode, immField_encode]
  cases i with
  | nop | rst | fwck | frd | frck | ckclr | srst | sstep | scan | rmark | rpt => rfl
  | getr r => exact withOperand_eq_ok (regNumber r) (by decide) rfl (by simp)
  | setidx n | gap n => exact withOperand_eq_ok n le_rfl (BitVec.setWidth_eq n) rfl
  | fwr v => exact withOperand_eq_ok v (by decide) rfl rfl
  | frdn n => exact withOperand_eq_ok n (by decide) rfl rfl
  | ssel sec | mark sec => exact withOperand_eq_ok (sectionBit sec) (by decide) rfl (by simp)
  | omode m => exact withOperand_eq_ok (outModeBit m) (by decide) rfl (by simp)
  | psel p => exact withOperand_eq_ok (profileBit p) (by decide) rfl (by simp)
  | emitb b => exact withOperand_eq_ok (BitVec.ofBool b) (by decide) rfl (by simp)

/-- An arm of the decoder for commands with an operand is right if its commands encode to its opcode and the operand. -/
theorem encode_eq_of_withOperand {c : Word} {i : Instr} {n w : Nat} {f : BitVec w → Instr}
    (hop : (opField c).toNat = n) (h : withOperand w (immField c) f = .ok i)
    (hf : ∀ v, encode (f v) = BitVec.ofNat 8 n ++ v.setWidth 24) : encode i = c := by
  obtain ⟨hfits, rfl⟩ := withOperand_eq_ok_iff.mp h
  rw [hf, setWidth_setWidth_of_ushiftRight_eq_zero hfits, ← hop, BitVec.ofNat_toNat, BitVec.setWidth_eq,
    opField_append_immField]

/-- The same for an arm for a command without an operand. -/
theorem encode_eq_of_noOperand {c : Word} {i j : Instr} {n : Nat} (hop : (opField c).toNat = n)
    (h : noOperand (immField c) j = .ok i) (hj : encode j = BitVec.ofNat 8 n ++ (0 : Count)) : encode i = c := by
  obtain ⟨himm, rfl⟩ := noOperand_eq_ok_iff.mp h
  rw [hj, ← himm, ← hop, BitVec.ofNat_toNat, BitVec.setWidth_eq, opField_append_immField]

/-- Settles O2, arm by arm of the decoder: each accepts only immediates that its commands have. -/
theorem decodedWordIsItsEncoding : Obligations.DecodedWordIsItsEncoding := by
  intro c i h
  unfold decode at h
  split at h
  case h_1 hop | h_2 hop | h_6 hop | h_7 hop | h_9 hop | h_10 hop | h_12 hop | h_13 hop | h_14 hop | h_15 hop
      | h_21 hop =>
    exact encode_eq_of_noOperand hop h rfl
  case h_3 hop | h_4 hop | h_5 hop | h_8 hop | h_11 hop | h_16 hop | h_17 hop | h_18 hop | h_19 hop | h_20 hop =>
    exact encode_eq_of_withOperand hop h fun v => by simp [encode, opcodeOf, immOf]
  case h_22 => cases h

/-- A word is legal exactly when it is the encoding of a command, which is then the command it decodes to. -/
theorem decode_eq_ok_iff {c : Word} {i : Instr} : decode c = .ok i ↔ encode i = c := by
  constructor
  · exact decodedWordIsItsEncoding c i
  · rintro rfl
    exact encodedCommandDecodesToItself i

/-- Settles O4: the legal words are the encodings of their commands. -/
theorem workedEncodingsDecode : Obligations.WorkedEncodingsDecode :=
  ⟨encodedCommandDecodesToItself (.fwr 0xA5), encodedCommandDecodesToItself (.frdn 128),
    encodedCommandDecodesToItself (.gap 22000), encodedCommandDecodesToItself (.mark .payload),
    encodedCommandDecodesToItself (.setidx 13), encodedCommandDecodesToItself (.getr .eidx), rfl, rfl, rfl⟩

end Sys2Proof.Proofs
end

section
/-! The opcode map of 30_encoding.md R83: its rows test the two fields of a word, and each row is that of a command. -/

namespace Sys2Proof.Proofs

/-- The number of operand bits of a command (R81, R83). -/
def operandWidth : Instr → Nat
  | .ssel _ | .omode _ | .psel _ | .emitb _ | .mark _ => 1
  | .getr _ => 3
  | .fwr _ => 8
  | .frdn _ => 16
  | .setidx _ | .gap _ => 24
  | _ => 0

/-- The row of a command, from its opcode and its operand width. -/
def rowOf (i : Instr) : OpcodeRow :=
  ⟨mnemonicOf i, opcodeOf i ++ (0 : Count), (0xFF : BitVec 8) ++ (BitVec.allOnes 24 <<< operandWidth i)⟩

/-- One command of each mnemonic, in the order of the opcode map. -/
def rowCommands : List Instr :=
  [.nop, .rst, .getr .ctrl, .setidx 0, .fwr 0, .fwck, .frd, .frdn 0, .frck, .ckclr, .ssel .header, .srst, .sstep, .scan,
   .rmark, .omode .bits, .psel .regular, .emitb false, .gap 0, .mark .header, .rpt]

theorem opcodeRows_eq_map_rowOf : opcodeRows = rowCommands.map rowOf := by rfl

theorem exists_rowOf_eq {r : OpcodeRow} (hr : r ∈ opcodeRows) : ∃ i, rowOf i = r := by
  rw [opcodeRows_eq_map_rowOf] at hr
  obtain ⟨i, -, hi⟩ := List.mem_map.mp hr
  exact ⟨i, hi⟩

/-- The operand of a command does not enter its row. -/
theorem rowOf_mem_opcodeRows (i : Instr) : rowOf i ∈ opcodeRows := by
  have hmem {j : Instr} (hj : j ∈ rowCommands) (hrow : rowOf i = rowOf j) : rowOf i ∈ opcodeRows := by
    rw [hrow, opcodeRows_eq_map_rowOf]
    exact List.mem_map_of_mem hj
  cases i with
  | getr r => exact hmem (j := .getr .ctrl) (by decide) rfl
  | setidx n => exact hmem (j := .setidx 0) (by decide) rfl
  | fwr v => exact hmem (j := .fwr 0) (by decide) rfl
  | frdn n => exact hmem (j := .frdn 0) (by decide) rfl
  | ssel sec => exact hmem (j := .ssel .header) (by decide) rfl
  | omode m => exact hmem (j := .omode .bits) (by decide) rfl
  | psel p => exact hmem (j := .psel .regular) (by decide) rfl
  | emitb b => exact hmem (j := .emitb false) (by decide) rfl
  | gap n => exact hmem (j := .gap 0) (by decide) rfl
  | mark sec => exact hmem (j := .mark .header) (by decide) rfl
  | _ => exact hmem (by decide) rfl

/-- A word matches the row of a command when its opcode is the command's and its immediate is an operand of the
command's width (R81). -/
theorem matches_rowOf_iff (c : Word) (i : Instr) :
    c &&& (rowOf i).mask = (rowOf i).pattern ↔ opField c = opcodeOf i ∧ immField c >>> operandWidth i = 0 := by
  have hones : opField c &&& (0xFF : BitVec 8) = opField c := BitVec.and_allOnes
  rw [← and_highMask_eq_zero_iff]
  conv_lhs => rw [← opField_append_immField c]
  rw [rowOf, BitVec.and_append, hones]
  constructor
  · intro h
    exact ⟨by simpa using congrArg opField h, by simpa using congrArg immField h⟩
  · rintro ⟨hop, himm⟩
    rw [hop, himm]

/-- Every operand of a command has the command's operand width. -/
theorem immOf_ushiftRight_operandWidth (i : Instr) : immOf i >>> operandWidth i = 0 := by
  cases i with
  | getr | fwr | frdn | ssel | omode | psel | emitb | mark => exact setWidth_ushiftRight_eq_zero _
  | setidx n | gap n => exact BitVec.ushiftRight_eq_zero le_rfl
  | _ => rfl

theorem encode_matches_rowOf (i : Instr) : encode i &&& (rowOf i).mask = (rowOf i).pattern := by
  rw [matches_rowOf_iff, opField_encode, immField_encode]
  exact ⟨rfl, immOf_ushiftRight_operandWidth i⟩

/-- Every immediate that is an operand of a command's width is the operand of a command with the same mnemonic. -/
theorem exists_immOf_eq (i : Instr) {imm : Count} (h : imm >>> operandWidth i = 0) :
    ∃ j, mnemonicOf j = mnemonicOf i ∧ opcodeOf j = opcodeOf i ∧ immOf j = imm := by
  have hfits := setWidth_setWidth_of_ushiftRight_eq_zero h
  cases i with
  | getr => exact ⟨.getr (regOf (imm.setWidth 3)), rfl, rfl, by simpa [immOf, operandWidth] using hfits⟩
  | setidx => exact ⟨.setidx imm, rfl, rfl, rfl⟩
  | fwr => exact ⟨.fwr (imm.setWidth 8), rfl, rfl, hfits⟩
  | frdn => exact ⟨.frdn (imm.setWidth 16), rfl, rfl, hfits⟩
  | ssel => exact ⟨.ssel (sectionOf (imm.setWidth 1)), rfl, rfl, by simpa [immOf, operandWidth] using hfits⟩
  | omode => exact ⟨.omode (outModeOf (imm.setWidth 1)), rfl, rfl, by simpa [immOf, operandWidth] using hfits⟩
  | psel => exact ⟨.psel (profileOf (imm.setWidth 1)), rfl, rfl, by simpa [immOf, operandWidth] using hfits⟩
  | emitb => exact ⟨.emitb (imm.setWidth 1 = 1), rfl, rfl, by simpa [immOf, operandWidth] using hfits⟩
  | gap => exact ⟨.gap imm, rfl, rfl, rfl⟩
  | mark => exact ⟨.mark (sectionOf (imm.setWidth 1)), rfl, rfl, by simpa [immOf, operandWidth] using hfits⟩
  | _ => exact ⟨_, rfl, rfl, h.symm.trans (BitVec.ushiftRight_zero imm)⟩

/-- A mnemonic names one row. -/
theorem mnemonic_nodup : (opcodeRows.map OpcodeRow.mnemonic).Nodup := by decide

theorem rowOf_eq_of_mnemonicOf_eq {i j : Instr} (h : mnemonicOf i = mnemonicOf j) : rowOf i = rowOf j :=
  List.inj_on_of_nodup_map mnemonic_nodup (rowOf_mem_opcodeRows i) (rowOf_mem_opcodeRows j) h

/-- No opcode stands in two rows. -/
theorem opcode_pairwise_ne : opcodeRows.Pairwise fun r q => opField r.pattern ≠ opField q.pattern := by decide

/-- Every mask tests the whole opcode. -/
theorem opField_eq_of_matches {c : Word} {r : OpcodeRow} (hr : r ∈ opcodeRows) (h : c &&& r.mask = r.pattern) :
    opField c = opField r.pattern := by
  obtain ⟨i, rfl⟩ := exists_rowOf_eq hr
  rw [((matches_rowOf_iff c i).mp h).1, rowOf, opField_append]

theorem matches_row_iff_decode {r : OpcodeRow} (hr : r ∈ opcodeRows) (c : Word) :
    c &&& r.mask = r.pattern ↔ ∃ i, decode c = .ok i ∧ mnemonicOf i = r.mnemonic := by
  obtain ⟨j, rfl⟩ := exists_rowOf_eq hr
  constructor
  · intro h
    obtain ⟨hop, hfits⟩ := (matches_rowOf_iff c j).mp h
    obtain ⟨i, hname, hop', himm⟩ := exists_immOf_eq j hfits
    exact ⟨i, decode_eq_ok_iff.mpr ((encode_eq_iff i c).mpr ⟨hop'.trans hop.symm, himm⟩), hname⟩
  · rintro ⟨i, hdecode, hname⟩
    rw [← rowOf_eq_of_mnemonicOf_eq hname, ← decode_eq_ok_iff.mp hdecode]
    exact encode_matches_rowOf i

/-- Settles O3: a word that decodes to a command matches that command's row, and rows with distinct opcodes share no
word. -/
theorem decoderFollowsOpcodeMap : Obligations.DecoderFollowsOpcodeMap := by
  refine ⟨fun r hr c => matches_row_iff_decode hr c, ?_, fun c hunlisted => ?_⟩
  · refine opcode_pairwise_ne.imp_of_mem fun hr hq hne c ⟨hmr, hmq⟩ => hne ?_
    exact (opField_eq_of_matches hr hmr).symm.trans (opField_eq_of_matches hq hmq)
  · cases hdecode : decode c with
    | error e => exact ⟨e, rfl⟩
    | ok i =>
      have hmatch := encode_matches_rowOf i
      rw [decode_eq_ok_iff.mp hdecode] at hmatch
      exact absurd hmatch (hunlisted _ (rowOf_mem_opcodeRows i))

end Sys2Proof.Proofs
end

section
/-! The issue of a command word (30_encoding.md R86) and its one result word (R82). -/

namespace Sys2Proof.Proofs

open Sys2Proof.Machine Sys2Proof.Spec

/-! ### The decode procedure -/

/-- A legal word is accepted while the fault bit is clear, and `RST`, which has one word, always (60_exceptions.md
R206). -/
theorem issueWord_of_decode_ok {w : Word} {s : State} {i : Instr} (hdecode : decode w = .ok i)
    (haccepted : s.stat.flt = false ∨ i = .rst) : issueWord w s = exec i s := by
  rcases issueWord_cases w s with ⟨hflt, hword, -⟩ | ⟨-, ⟨j, hj, h⟩ | ⟨e, he, -⟩⟩
  · rcases haccepted with hclear | rfl
    · simp [hclear] at hflt
    · exact absurd (decode_eq_ok_iff.mp hdecode).symm hword
  · obtain rfl := Except.ok.inj (hdecode.symm.trans hj)
    exact h
  · cases hdecode.symm.trans he

theorem step_of_command {s : State} {w : Word} {rest : List HostEvent} {i : Instr}
    (hinbox : s.inbox = .command w :: rest) (hdecode : decode w = .ok i) (haccepted : s.stat.flt = false ∨ i = .rst) :
    step s = exec i { s with inbox := rest } :=
  (step_of_inbox hinbox).trans (issueWord_of_decode_ok hdecode haccepted)

/-- The 32-bit value of a word issued by the host is the word. -/
theorem withFetchWord_inbox (s : State) (w : Word) : (s.withFetchWord 32 w.toNat).inbox = .command w :: s.inbox := by
  simp [State.withFetchWord, issueNext, Nat.mod_eq_of_lt w.isLt]

/-- Settles O5: a word issued by `withFetchWord` is the head of the inbox and decodes to its command. -/
theorem stepRunsDecodedCommand : Obligations.StepRunsDecodedCommand :=
  ⟨fun _ _ _ _ => step_of_command,
   fun s i hflt => step_of_command (withFetchWord_inbox s (encode i)) (encodedCommandDecodesToItself i) (.inl hflt)⟩

/-! ### The result word -/

theorem resultWord_eq_answer (code : BitVec 4) (value : Count) :
    resultWord code value = answer code.toNat value.toNat := by
  rw [answer, ← resultWord_toNat, BitVec.ofNat_toNat, BitVec.setWidth_eq]

/-- The end of a command delivers one result word, with a listed code (60_exceptions.md R201). -/
theorem Ends.results {u t : State} (h : Ends u t) :
    ∃ (code : BitVec 4) (value : Count), code.toNat ≤ 8 ∧ t.results = u.results ++ [resultWord code value] := by
  cases h with
  | ok v => exact ⟨0, v, by decide, ok_results u v⟩
  | fails k e hk => exact ⟨k.code, e, code_toNat_le k, raise_results u k e hk⟩

/-- The work of a command delivers nothing. -/
theorem Worked.results {i : Instr} {s u : State} (h : Worked i s u) : u.results = s.results := by
  cases i with
  | frd | frdn =>
    obtain ⟨c, d, n, bytes, rfl⟩ := h
    rfl
  | frck =>
    obtain ⟨d, n, rfl⟩ := h
    rfl
  | rmark =>
    obtain ⟨n, rfl⟩ := h
    rfl
  | sstep | scan =>
    obtain ⟨x, r, n, e, f, rfl⟩ := h
    rfl
  | fwck | emitb | gap | mark | rpt =>
    obtain ⟨q, rfl⟩ := h
    exact emit_results s q
  | fwr v =>
    obtain rfl := h
    exact emit_results s (frame v)
  | nop | rst | getr | setidx | ckclr | ssel | srst | omode | psel =>
    obtain rfl := h
    rfl

/-- Settles O41: every command completes (`exec_effect`); its work delivers nothing and its end one result word. -/
theorem everyCommandReturnsOneResult : Obligations.EveryCommandReturnsOneResult := by
  intro s i
  obtain ⟨u, t, hexec, hwork, hend⟩ := exec_effect i s
  obtain ⟨code, value, hcode, hresults⟩ := hend.results
  refine ⟨t, code.toNat, value.toNat, hexec, hcode, value.isLt, ?_⟩
  rw [hresults, hwork.results, resultWord_eq_answer]

end Sys2Proof.Proofs
end

section
/-! SUPPORT. The operations of Machine/ that the frame unit uses, in the terms the claims are written in (Safety.lean):
the bits of a frame, the checksum, the output stage, and the two ways a command ends. -/

namespace Sys2Proof.Proofs

open Sys2Proof.Machine Sys2Proof.Spec

/-! ### The bits of a frame -/

theorem frame_eq_frameBits (v : Byte) : frame v = frameBits v := rfl

@[simp] theorem length_frameBits (v : Byte) : (frameBits v).length = 9 := rfl

theorem length_flatMap_frameBits (bytes : List Byte) : (bytes.flatMap frameBits).length = 9 * bytes.length := by
  simp [List.length_flatMap, Nat.mul_comm]

/-! ### The two bytes of the checksum (20_memory.md R56) -/

theorem highByte_append_lowByte (c : Half) : highByte c ++ lowByte c = c :=
  (BitVec.extractLsb'_append_extractLsb'_eq_extractLsb' rfl).trans BitVec.extractLsb'_eq_self

theorem highByte_eq_div (c : Half) : highByte c = BitVec.ofNat 8 (c.toNat / 256) := by
  simp [highByte, BitVec.extractLsb', Nat.shiftRight_eq_div_pow]

theorem lowByte_eq_mod (c : Half) : lowByte c = BitVec.ofNat 8 (c.toNat % 256) := by
  apply BitVec.eq_of_toNat_eq
  simp [lowByte]

theorem toNat_append_bytes (hi lo : Byte) : (hi ++ lo : Half).toNat = hi.toNat * 256 + lo.toNat := by
  rw [BitVec.toNat_append, ← Nat.shiftLeft_add_eq_or_of_lt lo.isLt, Nat.shiftLeft_eq]

/-! ### The checksum -/

theorem count_true_eq_sum_toNat (q : List Bool) : q.count true = (q.map Bool.toNat).sum := by
  induction q with
  | nil => rfl
  | cons b q ih => cases b <;> simp [ih, Nat.add_comm]

/-- The data bits are the byte's bits, the most significant one first. -/
theorem dataBits_eq_reverse (v : Byte) : dataBits v = ((List.range 8).map v.getLsbD).reverse := rfl

theorem popcount8_eq_ones (v : Byte) : popcount8 v = ones v := by
  rw [popcount8, dataBits_eq_reverse, List.count_reverse, count_true_eq_sum_toNat, List.map_map]
  rfl

/-- The mod 65536 sum of the claims is the accumulator's own addition. -/
theorem ofNat_toNat_add_mod (c : Half) (n : Nat) :
    BitVec.ofNat 16 ((c.toNat + n) % 65536) = c + BitVec.ofNat 16 n := by
  apply BitVec.eq_of_toNat_eq
  simp

theorem tally_eq (v : Byte) (s : State) :
    tally v s = { s with cks := BitVec.ofNat 16 ((s.cks.toNat + ones v) % 65536) } := by
  rw [ofNat_toNat_add_mod, ← popcount8_eq_ones]
  rfl

/-- What a completed frame does, in the form of 40_frame.md R105. -/
theorem takeByte_eq (v : Byte) (s : State) :
    takeByte v s =
      { s with
        data := BitVec.ofNat 16 v.toNat, cks := BitVec.ofNat 16 ((s.cks.toNat + ones v) % 65536),
        rbuf := s.rbuf ++ [v], idx := BitVec.ofNat 24 (s.idx.toNat + 9) } := by
  rw [takeByte, tally_eq, BitVec.ofNat_add, BitVec.ofNat_toNat, BitVec.ofNat_toNat, BitVec.setWidth_eq]
  rfl

/-! ### The output stage -/

theorem bitSymbol_eq_symbol : bitSymbol = symbol := rfl

theorem render_eq_bitSamples (s : State) : render s.params (pulseTable s) = bitSamples s.params s.ctrl.psel := by
  funext b
  cases b <;> rfl

theorem emit_eq_emitted (q : List Bool) (s : State) : emit q s = emitted q s := by
  cases hmode : s.ctrl.omode <;> simp [emit, emitted, hmode, bitSymbol_eq_symbol, render_eq_bitSamples]

theorem emit_obits_of_bits {q : List Bool} {s : State} (h : s.ctrl.omode = .bits) :
    (emit q s).obits = s.obits ++ q.map symbol := by
  rw [emit_obits, if_pos h, bitSymbol_eq_symbol]

/-! ### The ends of a command -/

theorem ok_eq_returned (v : Count) (s : State) : ok v s = returned v.toNat s := by
  rw [ok, deliver, resultWord_eq_answer]
  rfl

theorem code_toNat_eq_codeOf (k : Kind) : k.code.toNat = codeOf k := by cases k <;> rfl

theorem raise_eq_latched {k : Kind} (e : Count) (s : State) (hk : k ≠ .illegalCommand) :
    raise k e s = latched k e.toNat s := by
  have hword : resultWord k.code e = answer (codeOf k) e.toNat := by
    rw [resultWord_eq_answer, code_toNat_eq_codeOf]
  rw [latched, ← hword, BitVec.ofNat_toNat, BitVec.setWidth_eq]
  cases k with
  | illegalCommand => exact absurd rfl hk
  | _ => rfl

theorem raiseFrame_eq_latched {k : Kind} {pos : Nat} (s : State) (hk : k ≠ .illegalCommand) (hpos : pos < 2 ^ 24) :
    raiseFrame ⟨k, pos⟩ s = latched k pos s := by
  rw [raiseFrame, raise_eq_latched _ _ hk, BitVec.toNat_ofNat, Nat.mod_eq_of_lt hpos]

end Sys2Proof.Proofs
end

section
/-! SUPPORT. Input that holds a bit sequence (`Holds`), and what `ReadFrame` (40_frame.md R104) answers over it and over
input with a failing position (`frameFault`). -/

namespace Sys2Proof.Proofs

open Sys2Proof.Machine Sys2Proof.Spec

/-! ### Input that holds a bit sequence -/

theorem holds_cons {s : State} {pos : Nat} {b : Bool} {q : List Bool} :
    Holds s pos (b :: q) ↔ symAt s pos = some (symbol b) ∧ Holds s (pos + 1) q := by
  constructor
  · intro h
    refine ⟨h 0 (by simp), fun k hk => ?_⟩
    have := h (k + 1) (Nat.succ_lt_succ hk)
    rwa [List.getElem_cons_succ, Nat.add_comm k 1, ← Nat.add_assoc] at this
  · rintro ⟨hhead, htail⟩ k hk
    cases k with
    | zero => exact hhead
    | succ k =>
      rw [List.getElem_cons_succ, Nat.add_comm k 1, ← Nat.add_assoc]
      exact htail k (Nat.lt_of_succ_lt_succ hk)

theorem holds_append {s : State} {pos : Nat} {p q : List Bool} :
    Holds s pos (p ++ q) ↔ Holds s pos p ∧ Holds s (pos + p.length) q := by
  induction p generalizing pos with
  | nil => simp [Holds]
  | cons b p ih => simp only [List.cons_append, holds_cons, ih, and_assoc, List.length_cons, Nat.add_comm p.length 1,
      Nat.add_assoc]

/-- What the input holds depends on LEN and BITS alone. -/
theorem holds_congr {s t : State} {pos : Nat} {q : List Bool} (h : Holds s pos q) (hbits : t.bits = s.bits)
    (hlen : t.len = s.len) : Holds t pos q :=
  fun k hk => (symAt_congr hbits hlen (pos + k)).trans (h k hk)

/-- A bound sequence of bits is held from index 0 on. -/
theorem holds_bindInput {q : List Bool} (s : State) (hq : q.length < 2 ^ 24) :
    Holds (bindInput (q.map symbol) s) 0 q := by
  intro k hk
  rw [symAt_bindInput s ((bindable_iff _).mpr (by simpa using hq))]
  simp [hk]

/-! ### A frame that is there -/

theorem symbol_le_one (b : Bool) : symbol b ≤ 1 := by cases b <;> decide

/-- The bits above position `n`, shifted up by one, and the bit at `n` are the bits from `n` on. -/
theorem ushiftRight_succ_mul_two_add (v : Byte) (n : Nat) :
    v >>> (n + 1) * 2 + symbol (v.getLsbD n) = v >>> n := by
  have hbit : (symbol (v.getLsbD n)).toNat = v.toNat / 2 ^ n % 2 := by
    rw [BitVec.getLsbD, Nat.testBit_eq_decide_div_mod_eq]
    rcases Nat.mod_two_eq_zero_or_one (v.toNat / 2 ^ n) with h | h <;> simp [symbol, h]
  apply BitVec.eq_of_toNat_eq
  have hlt : v.toNat / 2 ^ n < 256 := (Nat.div_le_self _ _).trans_lt v.isLt
  simp only [BitVec.toNat_add, BitVec.toNat_mul, BitVec.toNat_ushiftRight, Nat.shiftRight_eq_div_pow, hbit, pow_succ,
    ← Nat.div_div_eq_div_mul, show (2 : Byte).toNat = 2 from rfl]
  omega

/-- The loop of `ReadFrame` with the bits above position `n` shifted in: the remaining bits complete the byte. -/
theorem readDataBits_of_holds {s : State} {v : Byte} {n pos : Nat}
    (h : ∀ k < n, symAt s (pos + k) = some (symbol (v.getLsbD (n - 1 - k)))) :
    readDataBits s pos n (v >>> n) = .ok v := by
  induction n generalizing pos with
  | zero => simp [readDataBits]
  | succ n ih =>
    have hhead : symAt s pos = some (symbol (v.getLsbD n)) := by simpa using h 0 (Nat.succ_pos n)
    have htail : ∀ k < n, symAt s (pos + 1 + k) = some (symbol (v.getLsbD (n - 1 - k))) := fun k hk => by
      have := h (k + 1) (Nat.succ_lt_succ hk)
      rwa [show pos + (k + 1) = pos + 1 + k by omega, show n + 1 - 1 - (k + 1) = n - 1 - k by omega] at this
    simp only [readDataBits, hhead, if_neg (BitVec.not_lt.mpr (symbol_le_one _)), ushiftRight_succ_mul_two_add]
    exact ih htail

theorem readFrame_of_holds {s : State} {base : Nat} {v : Byte} (h : Holds s base (frameBits v)) :
    readFrame s base = .ok v := by
  obtain ⟨hstart, hdata⟩ := holds_cons.mp h
  have hbits : ∀ k < 8, symAt s (base + 1 + k) = some (symbol (v.getLsbD (8 - 1 - k))) := fun k hk => by
    have hlen : k < ((List.range 8).map fun k => v.getLsbD (7 - k)).length := by simpa using hk
    rw [hdata k hlen, List.getElem_map, List.getElem_range]
  have hread := readDataBits_of_holds hbits
  rw [BitVec.ushiftRight_eq_zero le_rfl] at hread
  simpa [readFrame, hstart, symbol] using hread

/-! ### A position that fails -/

/-- All data positions fail alike. -/
theorem frameFault_succ (k : Nat) (x : Option Byte) : frameFault (k + 1) x = frameFault 1 x := by
  cases x <;> simp [frameFault]

/-- A data position that does not fail is shifted in. -/
theorem readDataBits_of_noFault {s : State} {pos : Nat} (h : frameFault 1 (symAt s pos) = none) (n : Nat) (v : Byte) :
    ∃ w, readDataBits s pos (n + 1) v = readDataBits s (pos + 1) n w := by
  cases hsym : symAt s pos with
  | none => simp [hsym, frameFault] at h
  | some b =>
    have hbit : ¬ 1 < b := by simpa [hsym, frameFault, BitVec.lt_def] using h
    exact ⟨v * 2 + b, by simp only [readDataBits, hsym, if_neg hbit]⟩

/-- A data position that fails ends the frame. -/
theorem readDataBits_of_fault {s : State} {pos : Nat} {kind : Kind} (h : frameFault 1 (symAt s pos) = some kind)
    (n : Nat) (v : Byte) : readDataBits s pos (n + 1) v = .error ⟨kind, pos⟩ := by
  cases hsym : symAt s pos with
  | none =>
    obtain rfl : Kind.truncated = kind := by simpa [hsym, frameFault] using h
    simp [readDataBits, hsym]
  | some b =>
    obtain ⟨hbit, rfl⟩ : 1 < b ∧ Kind.badSymbol = kind := by simpa [hsym, frameFault, BitVec.lt_def] using h
    simp only [readDataBits, hsym, if_pos hbit]

/-- The first data position that fails decides the answer. -/
theorem readDataBits_of_firstFault {s : State} {n k pos : Nat} {kind : Kind} (v : Byte) (hk : k < n)
    (hbefore : ∀ j < k, frameFault 1 (symAt s (pos + j)) = none)
    (hfault : frameFault 1 (symAt s (pos + k)) = some kind) :
    readDataBits s pos n v = .error ⟨kind, pos + k⟩ := by
  induction n generalizing k pos v with
  | zero => exact absurd hk k.not_lt_zero
  | succ n ih =>
    cases k with
    | zero => exact readDataBits_of_fault hfault n v
    | succ k =>
      obtain ⟨w, hnext⟩ := readDataBits_of_noFault (hbefore 0 k.succ_pos) n v
      have hshift (j : Nat) : pos + (j + 1) = pos + 1 + j := by omega
      rw [Nat.add_zero] at hnext
      rw [hnext, hshift k]
      exact ih w (Nat.lt_of_succ_lt_succ hk) (fun j hj => hshift j ▸ hbefore (j + 1) (Nat.succ_lt_succ hj))
        (hshift k ▸ hfault)

/-- Data positions none of which fails are read. -/
theorem readDataBits_of_noFaults {s : State} {n pos : Nat} (v : Byte)
    (h : ∀ j < n, frameFault 1 (symAt s (pos + j)) = none) : ∃ w, readDataBits s pos n v = .ok w := by
  cases hread : readDataBits s pos n v with
  | ok w => exact ⟨w, rfl⟩
  | error e =>
    obtain ⟨hlow, hhigh, hcause⟩ := readDataBits_error hread
    have hnone := h (e.pos - pos) (by omega)
    rw [Nat.add_sub_cancel' hlow] at hnone
    rcases hcause with ⟨-, hsym⟩ | ⟨-, b, hsym, hbit⟩
    · simp [hsym, frameFault] at hnone
    · have hle : b.toNat ≤ 1 := by simpa [hsym, frameFault] using hnone
      exact absurd (BitVec.lt_def.mp hbit) (Nat.not_lt.mpr hle)

/-- A start position that does not fail holds a 1, and the data positions are read. -/
theorem readFrame_of_start {s : State} {base : Nat} (h : frameFault 0 (symAt s base) = none) :
    readFrame s base = readDataBits s (base + 1) 8 0 := by
  cases hsym : symAt s base with
  | none => simp [hsym, frameFault] at h
  | some b =>
    obtain rfl : b = 1 := by simpa [hsym, frameFault] using h
    simp [readFrame, hsym]

/-- A start position that fails ends the frame. -/
theorem readFrame_of_startFault {s : State} {base : Nat} {kind : Kind} (h : frameFault 0 (symAt s base) = some kind) :
    readFrame s base = .error ⟨kind, base⟩ := by
  cases hsym : symAt s base with
  | none =>
    obtain rfl : Kind.truncated = kind := by simpa [hsym, frameFault] using h
    simp [readFrame, hsym]
  | some b =>
    obtain ⟨hstart, rfl⟩ : b ≠ 1 ∧ Kind.startBitMissing = kind := by simpa [hsym, frameFault] using h
    simp only [readFrame, hsym, if_neg hstart]

theorem frameFault_data {s : State} {base j : Nat} {x : Option Kind}
    (h : frameFault (j + 1) (symAt s (base + (j + 1))) = x) : frameFault 1 (symAt s (base + 1 + j)) = x := by
  rwa [frameFault_succ, ← Nat.add_assoc, Nat.add_right_comm] at h

/-- The first position of a frame that fails decides the answer (40_frame.md R104). -/
theorem readFrame_of_firstFault {s : State} {base k : Nat} {kind : Kind} (hk : k < 9)
    (hbefore : ∀ j < k, frameFault j (symAt s (base + j)) = none)
    (hfault : frameFault k (symAt s (base + k)) = some kind) :
    readFrame s base = .error ⟨kind, base + k⟩ := by
  cases k with
  | zero => exact readFrame_of_startFault hfault
  | succ k =>
    rw [readFrame_of_start (base := base) (hbefore 0 k.succ_pos), ← Nat.add_assoc, Nat.add_right_comm]
    exact readDataBits_of_firstFault 0 (Nat.lt_of_succ_lt_succ hk)
      (fun j hj => frameFault_data (hbefore (j + 1) (Nat.succ_lt_succ hj))) (frameFault_data hfault)

/-- A frame none of whose positions fails is read. -/
theorem readFrame_of_noFaults {s : State} {base : Nat} (h : ∀ j < 9, frameFault j (symAt s (base + j)) = none) :
    ∃ v, readFrame s base = .ok v := by
  rw [readFrame_of_start (base := base) (h 0 (by decide))]
  exact readDataBits_of_noFaults 0 fun j hj => frameFault_data (h (j + 1) (Nat.succ_lt_succ hj))

/-- A position is inside the input or just past it while none before it failed, so its index fits the register. -/
theorem index_lt_of_noFaults {s : State} {k : Nat} {f : Nat → Nat}
    (hbefore : ∀ j < k, frameFault (f j) (symAt s (s.idx.toNat + j)) = none) : s.idx.toNat + k < 2 ^ 24 := by
  cases k with
  | zero => exact s.idx.isLt
  | succ k =>
    have hread : symAt s (s.idx.toNat + k) ≠ none := fun hnone => by
      have := hbefore k k.lt_succ_self
      simp [hnone, frameFault] at this
    have hinside := mt symAt_eq_none.mpr hread
    have := s.len.isLt
    omega

end Sys2Proof.Proofs
end

section
/-! The obligations of 40_frame.md on single commands: what each command of the frame unit answers, for a frame that is
there and for a position that fails. -/

namespace Sys2Proof.Proofs

open Sys2Proof.Machine Sys2Proof.Spec

/-- Settles O15: the loop completes the byte bit by bit (`readDataBits_of_holds`). -/
theorem readFrameInvertsFrame : Obligations.ReadFrameInvertsFrame :=
  ⟨frame_eq_frameBits, fun _ _ _ => readFrame_of_holds⟩

/-! ### The writing commands -/

theorem exec_fwr (v : Byte) (s : State) : exec (.fwr v) s = .next (ok 0 (tally v (emit (frame v) s))) := rfl

theorem exec_fwck (s : State) :
    exec .fwck s = .next (ok 0 (emit (frame (highByte s.cks) ++ frame (lowByte s.cks)) s)) := rfl

theorem exec_ckclr (s : State) : exec .ckclr s = .next (ok 0 { s with cks := 0 }) := rfl

/-- Settles O16: the output stage leaves CKS to the tally. -/
theorem fwrEmitsFrameAndTallies : Obligations.FwrEmitsFrameAndTallies := by
  intro s v
  rw [exec_fwr, ok_eq_returned, tally_eq, emit_cks, emit_eq_emitted, frame_eq_frameBits]
  rfl

/-- Settles O17: the two bytes of CKS are its quotient and remainder by 256. -/
theorem fwckEmitsChecksum : Obligations.FwckEmitsChecksum := by
  intro s
  rw [exec_fwck, ok_eq_returned, emit_eq_emitted, frame_eq_frameBits, frame_eq_frameBits, highByte_eq_div,
    lowByte_eq_mod]
  rfl

/-- Settles O21. -/
theorem ckclrClearsChecksum : Obligations.CkclrClearsChecksum := by
  intro s
  rw [exec_ckclr, ok_eq_returned]
  rfl

/-! ### `FRD` -/

theorem exec_frd_of_ok {s : State} {v : Byte} (h : readFrame s s.idx.toNat = .ok v) :
    exec .frd s = .next (ok (v.setWidth 24) (takeByte v s)) := by
  rcases execFrd_cases s with ⟨e, herr, -⟩ | ⟨w, hok, hexec⟩
  · cases h.symm.trans herr
  · obtain rfl := Except.ok.inj (h.symm.trans hok)
    exact hexec

theorem exec_frd_of_error {s : State} {e : FrameFailure} (h : readFrame s s.idx.toNat = .error e) :
    exec .frd s = .next (raiseFrame e s) := by
  rcases execFrd_cases s with ⟨e', herr, hexec⟩ | ⟨w, hok, -⟩
  · obtain rfl := Except.error.inj (h.symm.trans herr)
    exact hexec
  · cases h.symm.trans hok

/-- Settles O18: both clauses are `ReadFrame`'s answer, carried out. -/
theorem frdTakesFrameOrReportsFault : Obligations.FrdTakesFrameOrReportsFault := by
  refine ⟨fun s v hholds => ?_, fun s k kind hk hbefore hfault => ?_⟩
  · rw [exec_frd_of_ok (readFrame_of_holds hholds), ok_eq_returned, takeByte_eq,
      BitVec.toNat_setWidth_of_le (by decide)]
  · have hread := readFrame_of_firstFault hk hbefore hfault
    rw [exec_frd_of_error hread, raiseFrame_eq_latched s (readFrame_error_kind hread) (index_lt_of_noFaults hbefore)]

/-! ### `FRDN` as repeated `FRD` -/

/-- Results delivered before play no part in a failure. -/
theorem raiseFrame_with_results (e : FrameFailure) (s : State) (r : List Word) :
    raiseFrame e { s with results := r } =
      { raiseFrame e s with results := (raiseFrame e { s with results := r }).results } := by
  obtain ⟨kind, pos⟩ := e
  cases kind <;> rfl

/-- Nor in reading a frame. -/
theorem readFrame_with_results (s : State) (r : List Word) (base : Nat) :
    readFrame { s with results := r } base = readFrame s base :=
  readFrame_congr rfl rfl base

/-- A frame that is read is taken, and the next `FRD` follows. -/
theorem frdTimes_succ_of_ok {s : State} {v : Byte} (h : readFrame s s.idx.toNat = .ok v) (n : Nat) (r : List Word) :
    frdTimes (n + 1) { s with results := r } =
      frdTimes n { takeByte v s with results := r ++ [resultWord 0 (v.setWidth 24)] } := by
  have hread := (readFrame_with_results s r s.idx.toNat).trans h
  simp only [frdTimes, exec_frd_of_ok hread, latest_ok, (isOk_resultWord 0 _).mpr rfl, if_true]
  rfl

/-- A frame that fails ends the repetition with its result word. -/
theorem frdTimes_succ_of_error {s : State} {e : FrameFailure} (h : readFrame s s.idx.toNat = .error e) (n : Nat)
    (r : List Word) :
    frdTimes (n + 1) { s with results := r } =
      (raiseFrame e { s with results := r }, some (resultWord e.kind.code (BitVec.ofNat 24 e.pos))) := by
  have hread := (readFrame_with_results s r s.idx.toNat).trans h
  have hword : latest (raiseFrame e { s with results := r }) = _ := latest_raise _ _ _ (readFrame_error_kind h)
  simp only [frdTimes, exec_frd_of_error hread, hword, isOk_resultWord, if_neg (code_ne_zero e.kind)]

/-- The repetition of a run that completes. -/
theorem frdTimes_of_readFrames_none {n : Nat} {s t : State} (h : readFrames n s = (t, none)) (r : List Word) :
    ∃ r', frdTimes n { s with results := r } = ({ t with results := r' }, none) := by
  induction n generalizing s r with
  | zero =>
    obtain ⟨rfl, -⟩ := Prod.mk.inj h
    exact ⟨r, rfl⟩
  | succ n ih =>
    rw [readFrames] at h
    split at h
    · cases h
    · rename_i v hread
      rw [frdTimes_succ_of_ok hread]
      exact ih h _

/-- The repetition of a run that stops. -/
theorem frdTimes_of_readFrames_some {n : Nat} {s t : State} {e : FrameFailure} (h : readFrames n s = (t, some e))
    (r : List Word) :
    ∃ r', frdTimes n { s with results := r } =
      ({ raiseFrame e t with results := r' }, some (resultWord e.kind.code (BitVec.ofNat 24 e.pos))) := by
  induction n generalizing s r with
  | zero => cases h
  | succ n ih =>
    rw [readFrames] at h
    split at h
    · rename_i e' herr
      cases h
      rw [frdTimes_succ_of_error herr, raiseFrame_with_results]
      exact ⟨_, rfl⟩
    · rename_i v hread
      rw [frdTimes_succ_of_ok hread]
      exact ih h _

theorem readFrames_results (n : Nat) (s : State) : (readFrames n s).1.results = s.results := by
  obtain ⟨bytes, hframe⟩ := readFrames_frame n s
  rw [hframe]

theorem exec_frdn_of_none {n : Half} {s t : State} (h : readFrames n.toNat s = (t, none)) :
    exec (.frdn n) s = .next (ok (n.setWidth 24) t) := by
  simp only [exec, execFrdn, h]

theorem exec_frdn_of_some {n : Half} {s t : State} {e : FrameFailure} (h : readFrames n.toNat s = (t, some e)) :
    exec (.frdn n) s = .next (raiseFrame e t) := by
  simp only [exec, execFrdn, h]

/-- Settles O19: a run of frames and the repeated `FRD` leave the same state but for the results, whether the run
completes or stops. -/
theorem frdnIsRepeatedFrd : Obligations.FrdnIsRepeatedFrd := by
  intro s n
  have hresults := readFrames_results n.toNat s
  rcases hrun : readFrames n.toNat s with ⟨t, _ | e⟩ <;> rw [hrun] at hresults
  · obtain ⟨r', htimes⟩ := frdTimes_of_readFrames_none hrun s.results
    rw [exec_frdn_of_none hrun, htimes, ok_eq_returned, returned, hresults,
      BitVec.toNat_setWidth_of_le (by decide)]
    rfl
  · obtain ⟨r', htimes⟩ := frdTimes_of_readFrames_some hrun s.results
    have hraised : (raiseFrame e t).results = s.results ++ [resultWord e.kind.code (BitVec.ofNat 24 e.pos)] := by
      rw [raiseFrame, raise_results _ _ _ (readFrames_error_kind hrun), hresults]
    rw [exec_frdn_of_some hrun, htimes, Option.getD_some, ← hraised]

/-! ### `FRCK` -/

theorem readStored_of_ok {s : State} {base : Nat} {hi lo : Byte} (hhi : readFrame s base = .ok hi)
    (hlo : readFrame s (base + 9) = .ok lo) : readStored s base = .ok (hi ++ lo) := by
  simp only [readStored, hhi, hlo]

/-- The first position of the two frames that fails decides the answer. -/
theorem readStored_of_firstFault {s : State} {base k : Nat} {kind : Kind} (hk : k < 18)
    (hbefore : ∀ j < k, frameFault (j % 9) (symAt s (base + j)) = none)
    (hfault : frameFault (k % 9) (symAt s (base + k)) = some kind) :
    readStored s base = .error ⟨kind, base + k⟩ := by
  by_cases hfirst : k < 9
  · have hhi : readFrame s base = .error ⟨kind, base + k⟩ :=
      readFrame_of_firstFault hfirst
        (fun j hj => by simpa [Nat.mod_eq_of_lt (hj.trans hfirst)] using hbefore j hj)
        (by rwa [Nat.mod_eq_of_lt hfirst] at hfault)
    simp only [readStored, hhi]
  · obtain ⟨m, rfl⟩ := Nat.exists_eq_add_of_le (Nat.not_lt.mp hfirst)
    have hsecond {j : Nat} {x : Option Kind} (hj : j < 9)
        (h : frameFault ((9 + j) % 9) (symAt s (base + (9 + j))) = x) :
        frameFault j (symAt s (base + 9 + j)) = x := by
      rwa [Nat.add_mod_left, Nat.mod_eq_of_lt hj, ← Nat.add_assoc] at h
    obtain ⟨hi, hhi⟩ : ∃ hi, readFrame s base = .ok hi :=
      readFrame_of_noFaults fun j hj => by
        simpa [Nat.mod_eq_of_lt hj] using hbefore j (by omega)
    have hlo : readFrame s (base + 9) = .error ⟨kind, base + 9 + m⟩ :=
      readFrame_of_firstFault (by omega) (fun j hj => hsecond (by omega) (hbefore (9 + j) (by omega)))
        (hsecond (by omega) hfault)
    simp only [readStored, hhi, hlo, Nat.add_assoc]

/-- What `FRCK` does once it has read the stored checksum. -/
theorem exec_frck_of_ok {s : State} {c : Half} (h : readStored s s.idx.toNat = .ok c) :
    exec .frck s = .next
      (if c = s.cks then ok (c.setWidth 24) { s with data := c, idx := s.idx + 18 }
       else raise .checksumMismatch s.idx { s with data := c, idx := s.idx + 18 }) := by
  simp only [exec, execFrck, h]
  split <;> rfl

theorem exec_frck_of_error {s : State} {e : FrameFailure} (h : readStored s s.idx.toNat = .error e) :
    exec .frck s = .next (raiseFrame e s) := by
  simp only [exec, execFrck, h]

/-- Settles O20: two frames that are there are the stored checksum, which is compared as a number; a failing position is
that of the first or of the second frame. -/
theorem frckComparesOrReportsFault : Obligations.FrckComparesOrReportsFault := by
  refine ⟨fun s hi lo hholds => ?_, fun s k kind hk hbefore hfault => ?_⟩
  · obtain ⟨hhi, hlo⟩ := holds_append.mp hholds
    have hread := readStored_of_ok (readFrame_of_holds hhi) (readFrame_of_holds hlo)
    have hcmp : (hi ++ lo : Half) = s.cks ↔ hi.toNat * 256 + lo.toNat = s.cks.toNat := by
      rw [← toNat_append_bytes, BitVec.toNat_inj]
    rw [exec_frck_of_ok hread, ok_eq_returned, raise_eq_latched _ _ (by decide), BitVec.toNat_setWidth_of_le (by decide)]
    simp only [hcmp, ← toNat_append_bytes, BitVec.ofNat_add, BitVec.ofNat_toNat, BitVec.setWidth_eq]
    rfl
  · have hread := readStored_of_firstFault hk hbefore hfault
    rw [exec_frck_of_error hread, raiseFrame_eq_latched s (readStored_error_kind hread) (index_lt_of_noFaults hbefore)]

end Sys2Proof.Proofs
end

section
/-! SUPPORT. Sequences of frames: the bytes a sequence of `FWR` writes and the bytes `FRDN` takes, with what each leaves
in CKS, the streams and IDX. -/

namespace Sys2Proof.Proofs

open Sys2Proof.Machine Sys2Proof.Spec

/-! ### Commands one after another -/

theorem execAll_cons {i : Instr} {s t : State} (h : exec i s = .next t) (is : List Instr) :
    execAll (i :: is) s = execAll is t := by
  simp only [execAll, h]

/-! ### Writing -/

/-- The state after `FWR` of each byte. -/
def wroteBytes : List Byte → State → State
  | [], s => s
  | v :: bytes, s => wroteBytes bytes (ok 0 (tally v (emit (frame v) s)))

theorem execAll_map_fwr_append (bytes : List Byte) (is : List Instr) (s : State) :
    execAll (bytes.map .fwr ++ is) s = execAll is (wroteBytes bytes s) := by
  induction bytes generalizing s with
  | nil => rfl
  | cons v bytes ih => exact (execAll_cons (exec_fwr v s) _).trans (ih _)

theorem wroteBytes_cks (bytes : List Byte) (s : State) :
    (wroteBytes bytes s).cks = s.cks + BitVec.ofNat 16 (bytes.map ones).sum := by
  induction bytes generalizing s with
  | nil => simp [wroteBytes]
  | cons v bytes ih => simp [wroteBytes, ih, popcount8_eq_ones, BitVec.ofNat_add, BitVec.add_assoc]

@[simp] theorem wroteBytes_ctrl (bytes : List Byte) (s : State) : (wroteBytes bytes s).ctrl = s.ctrl := by
  induction bytes generalizing s with
  | nil => rfl
  | cons v bytes ih => simp [wroteBytes, ih]

theorem wroteBytes_obits {bytes : List Byte} {s : State} (h : s.ctrl.omode = .bits) :
    (wroteBytes bytes s).obits = s.obits ++ (bytes.flatMap frameBits).map symbol := by
  induction bytes generalizing s with
  | nil => simp [wroteBytes]
  | cons v bytes ih =>
    rw [wroteBytes, ih (by simpa using h)]
    simp [emit_obits_of_bits h, frame_eq_frameBits]

/-- `CKCLR` and `FWR` of each byte: CKS is the bytes' checksum, and in bits form OBITS grows by their frames. -/
theorem execAll_ckclr_fwr (bytes : List Byte) (s : State) (is : List Instr) :
    ∃ t, execAll (.ckclr :: (bytes.map .fwr ++ is)) s = execAll is t ∧
      t.cks = BitVec.ofNat 16 (bytes.map ones).sum ∧ t.ctrl = s.ctrl ∧
      (s.ctrl.omode = .bits → t.obits = s.obits ++ (bytes.flatMap frameBits).map symbol) := by
  refine ⟨wroteBytes bytes (returned 0 { s with cks := 0 }), ?_, ?_, wroteBytes_ctrl _ _, fun h => wroteBytes_obits h⟩
  · rw [execAll_cons (ckclrClearsChecksum s), execAll_map_fwr_append]
  · simp [wroteBytes_cks, returned]

/-! ### Reading -/

/-- The state after the frames of the bytes were taken. -/
def tookBytes : List Byte → State → State
  | [], s => s
  | v :: bytes, s => tookBytes bytes (takeByte v s)

theorem tookBytes_cks (bytes : List Byte) (s : State) :
    (tookBytes bytes s).cks = s.cks + BitVec.ofNat 16 (bytes.map ones).sum := by
  induction bytes generalizing s with
  | nil => simp [tookBytes]
  | cons v bytes ih => simp [tookBytes, ih, popcount8_eq_ones, BitVec.ofNat_add, BitVec.add_assoc]

@[simp] theorem tookBytes_rbuf (bytes : List Byte) (s : State) : (tookBytes bytes s).rbuf = s.rbuf ++ bytes := by
  induction bytes generalizing s with
  | nil => simp [tookBytes]
  | cons v bytes ih => simp [tookBytes, ih]

@[simp] theorem tookBytes_len (bytes : List Byte) (s : State) : (tookBytes bytes s).len = s.len := by
  induction bytes generalizing s with
  | nil => rfl
  | cons v bytes ih => simp [tookBytes, ih]

@[simp] theorem tookBytes_bits (bytes : List Byte) (s : State) : (tookBytes bytes s).bits = s.bits := by
  induction bytes generalizing s with
  | nil => rfl
  | cons v bytes ih => simp [tookBytes, ih]

@[simp] theorem tookBytes_results (bytes : List Byte) (s : State) : (tookBytes bytes s).results = s.results := by
  induction bytes generalizing s with
  | nil => rfl
  | cons v bytes ih => simp [tookBytes, ih]

theorem add_ofNat_toNat {i : Count} {n : Nat} (h : i.toNat + n < 2 ^ 24) :
    (i + BitVec.ofNat 24 n).toNat = i.toNat + n := by
  simpa using h

/-- A frame that was read lies inside the input, so IDX moves past it without wrapping. -/
theorem takeByte_idx_toNat {s : State} {v : Byte} (h : readFrame s s.idx.toNat = .ok v) (w : Byte) :
    (takeByte w s).idx.toNat = s.idx.toNat + 9 := by
  obtain ⟨hinside, -, -⟩ := readFrame_ok h
  exact add_ofNat_toNat (hinside.trans_lt s.len.isLt)

/-- The frames at IDX are taken one by one. -/
theorem readFrames_of_holds {bytes : List Byte} {s : State} (h : Holds s s.idx.toNat (bytes.flatMap frameBits)) :
    readFrames bytes.length s = (tookBytes bytes s, none) ∧
      (tookBytes bytes s).idx.toNat = s.idx.toNat + 9 * bytes.length := by
  induction bytes generalizing s with
  | nil => exact ⟨rfl, rfl⟩
  | cons v bytes ih =>
    obtain ⟨hhead, htail⟩ := holds_append.mp h
    have hread := readFrame_of_holds hhead
    have hidx := takeByte_idx_toNat hread v
    rw [length_frameBits, ← hidx] at htail
    obtain ⟨hrest, hmoved⟩ := ih (holds_congr htail (takeByte_bits s v) (takeByte_len s v))
    refine ⟨?_, ?_⟩
    · simp only [List.length_cons, readFrames, hread, hrest, tookBytes]
    · rw [tookBytes, hmoved, hidx, List.length_cons]
      omega

/-- `FRDN` over the frames of at most 65535 bytes, the count it can name (40_frame.md R106). -/
theorem exec_frdn_of_holds {bytes : List Byte} {s : State} (hlen : bytes.length ≤ 65535)
    (h : Holds s s.idx.toNat (bytes.flatMap frameBits)) :
    exec (.frdn (BitVec.ofNat 16 bytes.length)) s = .next (returned bytes.length (tookBytes bytes s)) := by
  have hcount : (BitVec.ofNat 16 bytes.length).toNat = bytes.length := by simp; omega
  obtain ⟨hread, -⟩ := readFrames_of_holds h
  rw [exec_frdn_of_none (hcount.symm ▸ hread), ok_eq_returned, BitVec.toNat_setWidth_of_le (by decide), hcount]

/-- `CKCLR` and `FRDN` over frames at IDX: the bytes go to RBUF and CKS is their checksum. -/
theorem execAll_ckclr_frdn {bytes : List Byte} {s : State} (hlen : bytes.length ≤ 65535)
    (h : Holds s s.idx.toNat (bytes.flatMap frameBits)) (is : List Instr) :
    ∃ t, execAll (.ckclr :: .frdn (BitVec.ofNat 16 bytes.length) :: is) s = execAll is t ∧
      t.cks = BitVec.ofNat 16 (bytes.map ones).sum ∧ t.rbuf = s.rbuf ++ bytes ∧
      t.idx.toNat = s.idx.toNat + 9 * bytes.length ∧ t.bits = s.bits ∧ t.len = s.len ∧
      t.results = s.results ++ [answer 0 0, answer 0 bytes.length] := by
  have hcleared : Holds (returned 0 { s with cks := 0 }) s.idx.toNat (bytes.flatMap frameBits) := holds_congr h rfl rfl
  obtain ⟨-, hidx⟩ := readFrames_of_holds hcleared
  refine ⟨returned bytes.length (tookBytes bytes (returned 0 { s with cks := 0 })), ?_, ?_, ?_, hidx, ?_, ?_, ?_⟩
  · rw [execAll_cons (ckclrClearsChecksum s), execAll_cons (exec_frdn_of_holds hlen hcleared)]
  all_goals simp [returned, tookBytes_cks]

end Sys2Proof.Proofs
end

section
/-! The obligations of 40_frame.md on sequences of commands: the checksum law R110 on both sides, and the record that is
written, bound and read back. -/

namespace Sys2Proof.Proofs

open Sys2Proof.Machine Sys2Proof.Spec

/-- Settles O22: on both sides each byte adds its 1 bits to a cleared accumulator. -/
theorem checksumCountsDataBits : Obligations.ChecksumCountsDataBits := by
  refine ⟨fun s bytes => ?_, fun s bytes hlen hholds => ?_⟩
  · obtain ⟨t, hexec, hcks, -⟩ := execAll_ckclr_fwr bytes s []
    rw [List.append_nil] at hexec
    exact ⟨t, hexec, by rw [hcks, BitVec.toNat_ofNat]⟩
  · obtain ⟨t, hexec, hcks, hrbuf, hidx, -⟩ := execAll_ckclr_frdn hlen hholds []
    exact ⟨t, hexec, by rw [hcks, BitVec.toNat_ofNat], hrbuf, hidx⟩

/-- The bits of a record: the frames of its bytes, then those of its checksum, high byte first (40_frame.md R103). -/
def recordFrames (bytes : List Byte) (c : Half) : List Bool :=
  bytes.flatMap frameBits ++ (frameBits (highByte c) ++ frameBits (lowByte c))

theorem length_recordFrames (bytes : List Byte) (c : Half) :
    (recordFrames bytes c).length = (bytes.length + 2) * 9 := by
  simp only [recordFrames, List.length_append, length_flatMap_frameBits, length_frameBits]
  omega

/-- A record written in bits form: OBITS grows by its frames, and CKS stays at its checksum. -/
theorem execAll_writeRecord {s : State} (bytes : List Byte) (h : s.ctrl.omode = .bits) :
    ∃ t, execAll (.ckclr :: (bytes.map .fwr ++ [.fwck])) s = some t ∧
      t.cks = BitVec.ofNat 16 (bytes.map ones).sum ∧ t.obits = s.obits ++ (recordFrames bytes t.cks).map symbol := by
  obtain ⟨u, hexec, hcks, hctrl, hobits⟩ := execAll_ckclr_fwr bytes s [.fwck]
  refine ⟨ok 0 (emit (frame (highByte u.cks) ++ frame (lowByte u.cks)) u), ?_, ?_, ?_⟩
  · rw [hexec, execAll_cons (exec_fwck u), execAll]
  · rw [ok_cks, emit_cks, hcks]
  · rw [ok_cks, emit_cks, ok_obits, emit_obits_of_bits (hctrl ▸ h), hobits h, List.append_assoc, ← List.map_append]
    rfl

/-- A record at IDX is read: its bytes go to RBUF, its checksum matches, and each command answers `OK`. -/
theorem execAll_readRecord {s : State} {bytes : List Byte} {c : Half} (hlen : bytes.length ≤ 65535)
    (hc : c = BitVec.ofNat 16 (bytes.map ones).sum) (h : Holds s s.idx.toNat (recordFrames bytes c)) :
    ∃ t, execAll [.ckclr, .frdn (BitVec.ofNat 16 bytes.length), .frck] s = some t ∧ t.rbuf = s.rbuf ++ bytes ∧
      t.idx.toNat = s.idx.toNat + (bytes.length + 2) * 9 ∧
      t.results = s.results ++ [answer 0 0, answer 0 bytes.length, answer 0 c.toNat] := by
  obtain ⟨hbytes, hstored⟩ := holds_append.mp h
  rw [length_flatMap_frameBits] at hstored
  obtain ⟨u, hread, hcks, hrbuf, hidx, hbits, hlenu, hresults⟩ := execAll_ckclr_frdn hlen hbytes [.frck]
  rw [← hidx] at hstored
  obtain ⟨hhi, hlo⟩ := holds_append.mp (holds_congr hstored hbits hlenu)
  have hframes := readStored_of_ok (readFrame_of_holds hhi) (readFrame_of_holds hlo)
  rw [highByte_append_lowByte] at hframes
  have hfrck := exec_frck_of_ok hframes
  rw [if_pos (hc.trans hcks.symm), ok_eq_returned, BitVec.toNat_setWidth_of_le (by decide)] at hfrck
  obtain ⟨hinside, -⟩ := readStored_ok hframes
  have hmoved := add_ofNat_toNat (hinside.trans_lt u.len.isLt)
  refine ⟨_, hread.trans (execAll_cons hfrck []), hrbuf, hmoved.trans ?_, ?_⟩
  · omega
  · simp [returned, hresults]

/-- Settles O23: what was written is held from index 0 on once it is bound, and is read as a record. -/
theorem recordReadsBack : Obligations.RecordReadsBack := by
  intro s u bytes hlen hmode
  obtain ⟨t, hwrite, hcks, hobits⟩ := execAll_writeRecord (s := { s with obits := [] }) bytes hmode
  rw [List.nil_append] at hobits
  have hshort : (recordFrames bytes t.cks).length < 2 ^ 24 := by
    rw [length_recordFrames]
    omega
  have hholds : Holds { bindInput t.obits u with idx := 0, rbuf := [] } 0 (recordFrames bytes t.cks) := by
    rw [hobits]
    exact holds_congr (holds_bindInput u hshort) rfl rfl
  obtain ⟨v, hread, hrbuf, hidx, hresults⟩ := execAll_readRecord hlen hcks hholds
  exact ⟨t, hwrite, v, hread, hrbuf, hidx.trans (Nat.zero_add _), hresults⟩

end Sys2Proof.Proofs
end

section
/-! SUPPORT. The scanner's transitions (41_scanner.md R123), row by row, in the terms the claims are written in: a
transition goes on to a state with its run count (`scanned`) or misses the mark (`missed`). -/

namespace Sys2Proof.Proofs

open Sys2Proof.Machine Sys2Proof.Spec

theorem count_toNat {n : Nat} (h : n < 2 ^ 24) : (BitVec.ofNat 24 n).toNat = n := by
  rw [BitVec.toNat_ofNat, Nat.mod_eq_of_lt h]

/-- `n` symbols past `s`, with the scanner in state `x` and RUN = `r`. -/
def scanned (x : ScanState) (r n : Nat) (s : State) : State :=
  { s with
    stat := ⟨x, s.stat.flt, s.stat.err⟩, run := BitVec.ofNat 24 r, idx := BitVec.ofNat 24 (s.idx.toNat + n) }

/-- One symbol past `s`, with the scanner failed at that symbol. -/
def missed (s : State) : State :=
  { s with
    stat := ⟨.failed, s.stat.flt, s.stat.err⟩, eidx := s.idx, idx := BitVec.ofNat 24 (s.idx.toNat + 1) }

section Scanned

variable (x : ScanState) (r n : Nat) (s : State)

@[simp] theorem scanned_sst : (scanned x r n s).stat.sst = x := rfl
@[simp] theorem scanProfile_scanned : scanProfile (scanned x r n s) = scanProfile s := rfl

theorem scanned_run_toNat (hr : r < 2 ^ 24) : (scanned x r n s).run.toNat = r := count_toNat hr

theorem scanned_idx_toNat (hn : s.idx.toNat + n < 2 ^ 24) : (scanned x r n s).idx.toNat = s.idx.toNat + n :=
  count_toNat hn

theorem scanned_self : scanned s.stat.sst s.run.toNat 0 s = s := by simp [scanned]

theorem scanned_scanned (y : ScanState) (q m : Nat) :
    scanned x r n (scanned y q m s) = scanned x r (m + n) s := by
  have hidx : BitVec.ofNat 24 ((BitVec.ofNat 24 (s.idx.toNat + m)).toNat + n) =
      BitVec.ofNat 24 (s.idx.toNat + (m + n)) := by
    apply BitVec.eq_of_toNat_eq
    simp [Nat.add_assoc]
  simp only [scanned, hidx]

@[simp] theorem missed_sst : (missed s).stat.sst = .failed := rfl

end Scanned

/-! ### The rows of the transition table -/

/-- The bit that a state counts, and any other bit ends its run. -/
def countedBit : ScanState → Option Bool
  | .seekingZeros => some false
  | .countingHighMarker => some true
  | .countingLowMarker => some false
  | .found | .failed => none

theorem ne_found_of_counted {x : ScanState} {c : Bool} (h : countedBit x = some c) : x ≠ .found := by
  rintro rfl
  cases h

theorem ne_failed_of_counted {x : ScanState} {c : Bool} (h : countedBit x = some c) : x ≠ .failed := by
  rintro rfl
  cases h

section Rows

variable {s : State}

theorem scanSymbol_of_bad {b : Byte} (hb : 1 < b) : scanSymbol b s = missed s := by
  rw [scanSymbol, if_pos hb]
  rfl

theorem scanSymbol_symbol (b : Bool) : scanSymbol (symbol b) s = scanBit b s.idx { s with idx := s.idx + 1 } := by
  cases b <;> rfl

theorem scanSymbol_of_counted {c : Bool} (h : countedBit s.stat.sst = some c) :
    scanSymbol (symbol c) s = countUp { s with idx := s.idx + 1 } := by
  rw [scanSymbol_symbol]
  cases hsst : s.stat.sst <;> rw [hsst] at h <;> cases h <;> simp only [scanBit, hsst]

theorem countUp_of_fits (h : s.run.toNat + 1 < 2 ^ 24) : countUp s = { s with run := s.run + 1 } := by
  rw [countUp, if_neg]
  rw [← BitVec.toNat_inj, BitVec.toNat_allOnes]
  omega

theorem countUp_of_full (h : s.run.toNat = 2 ^ 24 - 1) :
    countUp s = { s with run := Config.freeRun s.free, free := s.free + 1 } := by
  rw [countUp, if_pos]
  rw [← BitVec.toNat_inj, BitVec.toNat_allOnes, h]

/-- A state goes on counting its bit, while RUN has room. -/
theorem scanSymbol_counts {c : Bool} (h : countedBit s.stat.sst = some c) (hrun : s.run.toNat + 1 < 2 ^ 24) :
    scanSymbol (symbol c) s = scanned s.stat.sst (s.run.toNat + 1) 1 s := by
  rw [scanSymbol_of_counted h, countUp_of_fits (s := { s with idx := s.idx + 1 }) hrun]
  simp [scanned, BitVec.ofNat_add]

theorem scanSymbol_seekingZeros_one (h : s.stat.sst = .seekingZeros) :
    scanSymbol 1 s =
      if (scanProfile s).minZ.toNat ≤ s.run.toNat then scanned .countingHighMarker 1 1 s else missed s := by
  rw [show (1 : Byte) = symbol true from rfl, scanSymbol_symbol]
  simp only [scanBit, h]
  exact if_congr BitVec.le_def rfl rfl

theorem scanSymbol_countingHighMarker_zero (h : s.stat.sst = .countingHighMarker) :
    scanSymbol 0 s =
      if s.run.toNat = (scanProfile s).hRun.toNat then scanned .countingLowMarker 1 1 s else missed s := by
  rw [show (0 : Byte) = symbol false from rfl, scanSymbol_symbol]
  simp only [scanBit, h]
  exact if_congr BitVec.toNat_inj.symm rfl rfl

theorem scanSymbol_countingLowMarker_one (h : s.stat.sst = .countingLowMarker) :
    scanSymbol 1 s =
      if s.run.toNat = (scanProfile s).lRun.toNat then scanned .found s.run.toNat 1 s else missed s := by
  rw [show (1 : Byte) = symbol true from rfl, scanSymbol_symbol]
  simp only [scanBit, h]
  exact if_congr BitVec.toNat_inj.symm (by simp [setSst, scanned, BitVec.ofNat_add]) rfl

end Rows

/-- What a transition can do from a state that is neither `found` nor `failed`: count the symbol, start the next run,
find the mark with RUN = LRUN, or miss it. -/
theorem scanSymbol_cases (b : Byte) {s : State} (hfound : s.stat.sst ≠ .found) (hfailed : s.stat.sst ≠ .failed)
    (hrun : s.run.toNat + 1 < 2 ^ 24) :
    (∃ x, x ≠ .found ∧ (scanSymbol b s = scanned x (s.run.toNat + 1) 1 s ∨ scanSymbol b s = scanned x 1 1 s)) ∨
      (s.run.toNat = (scanProfile s).lRun.toNat ∧ scanSymbol b s = scanned .found s.run.toNat 1 s) ∨
      scanSymbol b s = missed s := by
  by_cases hb : 1 < b
  · exact .inr (.inr (scanSymbol_of_bad hb))
  obtain ⟨c, rfl⟩ : ∃ c, b = symbol c := by
    obtain rfl | rfl : b = 0 ∨ b = 1 := by bv_omega
    exacts [⟨false, rfl⟩, ⟨true, rfl⟩]
  by_cases hcounted : countedBit s.stat.sst = some c
  · exact .inl ⟨_, hfound, .inl (scanSymbol_counts hcounted hrun)⟩
  cases hsst : s.stat.sst with
  | found => exact absurd hsst hfound
  | failed => exact absurd hsst hfailed
  | seekingZeros =>
    obtain rfl : c = true := by simpa [hsst, countedBit] using hcounted
    have hrow := scanSymbol_seekingZeros_one hsst
    split at hrow
    · exact .inl ⟨_, by decide, .inr hrow⟩
    · exact .inr (.inr hrow)
  | countingHighMarker =>
    obtain rfl : c = false := by simpa [hsst, countedBit] using hcounted
    have hrow := scanSymbol_countingHighMarker_zero hsst
    split at hrow
    · exact .inl ⟨_, by decide, .inr hrow⟩
    · exact .inr (.inr hrow)
  | countingLowMarker =>
    obtain rfl : c = true := by simpa [hsst, countedBit] using hcounted
    have hrow := scanSymbol_countingLowMarker_one hsst
    split at hrow
    · rename_i hlow
      exact .inr (.inl ⟨hlow, hrow⟩)
    · exact .inr (.inr hrow)

/-! ### `SSTEP` -/

theorem sstValue_toNat (s : State) : (sstValue s).toNat = sstNumber s.stat.sst := by
  cases hsst : s.stat.sst <;> simp [sstValue, hsst, ScanState.number, sstNumber]

theorem exec_sstep_of_stopped {s : State} (h : s.stat.sst = .found ∨ s.stat.sst = .failed) :
    exec .sstep s = .next (returned (sstNumber s.stat.sst) s) := by
  rw [← sstValue_toNat, ← ok_eq_returned]
  simp only [exec, execSstep, if_pos h]

theorem exec_sstep_of_end {s : State} (hfound : s.stat.sst ≠ .found) (hfailed : s.stat.sst ≠ .failed)
    (hsym : symAt s s.idx.toNat = none) : exec .sstep s = .next (latched .endOfInput s.idx.toNat s) := by
  rw [← raise_eq_latched _ _ (by decide)]
  simp only [exec, execSstep, hsym, if_neg (not_or.mpr ⟨hfound, hfailed⟩)]

theorem exec_sstep_of_symbol {s : State} {b : Byte} (hfound : s.stat.sst ≠ .found) (hfailed : s.stat.sst ≠ .failed)
    (hsym : symAt s s.idx.toNat = some b) :
    exec .sstep s = .next (returned (sstNumber (scanSymbol b s).stat.sst) (scanSymbol b s)) := by
  rw [← sstValue_toNat, ← ok_eq_returned]
  simp only [exec, execSstep, hsym, if_neg (not_or.mpr ⟨hfound, hfailed⟩)]

/-- `SSTEP` over a symbol that its state counts. -/
theorem exec_sstep_counts {s : State} {x : ScanState} {c : Bool} (hx : s.stat.sst = x)
    (hcounted : countedBit x = some c) (hsym : symAt s s.idx.toNat = some (symbol c))
    (hrun : s.run.toNat + 1 < 2 ^ 24) :
    exec .sstep s = .next (returned (sstNumber x) (scanned x (s.run.toNat + 1) 1 s)) := by
  subst hx
  rw [exec_sstep_of_symbol (ne_found_of_counted hcounted) (ne_failed_of_counted hcounted) hsym,
    scanSymbol_counts hcounted hrun, scanned_sst]

/-- `SSTEP` over a symbol that ends its state's run. -/
theorem exec_sstep_of_row {s : State} {b : Byte} {x : ScanState} {r : Nat} {p : Prop} [Decidable p]
    (hfound : s.stat.sst ≠ .found) (hfailed : s.stat.sst ≠ .failed) (hsym : symAt s s.idx.toNat = some b)
    (hrow : scanSymbol b s = if p then scanned x r 1 s else missed s) :
    exec .sstep s =
      .next (if p then returned (sstNumber x) (scanned x r 1 s) else returned 4 (missed s)) := by
  rw [exec_sstep_of_symbol hfound hfailed hsym, hrow]
  split <;> rfl

end Sys2Proof.Proofs
end

section
/-! The obligations of 41_scanner.md on single commands: the selections, `SRST`, the transitions of `SSTEP`, and the
repeat mark of `RMARK`. -/

namespace Sys2Proof.Proofs

open Sys2Proof.Machine Sys2Proof.Spec

theorem exec_srst (s : State) : exec .srst s = .next (ok 0 (scannerReset s)) := rfl

/-- Settles O24. -/
theorem srstResetsScanState : Obligations.SrstResetsScanState := by
  intro s
  rw [exec_srst, ok_eq_returned]
  rfl

theorem exec_ssel (sec : Section) (s : State) :
    exec (.ssel sec) s = .next (ok 0 { s with ctrl := { s.ctrl with ssel := sec } }) := rfl

theorem exec_omode (m : OutMode) (s : State) :
    exec (.omode m) s = .next (ok 0 { s with ctrl := { s.ctrl with omode := m } }) := rfl

theorem exec_psel (p : PulseProfile) (s : State) :
    exec (.psel p) s = .next (ok 0 { s with ctrl := { s.ctrl with psel := p } }) := rfl

/-- Settles O32: each selection answers `OK` over one field of CTRL. -/
theorem selectionWritesOneField : Obligations.SelectionWritesOneField := by
  refine ⟨fun s sec => ?_, fun s m => ?_, fun s p => ?_⟩
  · rw [exec_ssel, ok_eq_returned]
    rfl
  · rw [exec_omode, ok_eq_returned]
    rfl
  · rw [exec_psel, ok_eq_returned]
    rfl

/-- Settles O25: `SSTEP` is its state's row of the transition table. -/
theorem sstepFollowsTransitions : Obligations.SstepFollowsTransitions := by
  intro s
  refine ⟨fun hsst => ?found, fun hsst => ?failed, exec_sstep_of_end, ?bad,
    fun hsst hsym hrun => exec_sstep_counts hsst rfl hsym hrun, fun hsst hsym => ?zerosEnd,
    fun hsst hsym hrun => exec_sstep_counts hsst rfl hsym hrun, fun hsst hsym => ?highsEnd,
    fun hsst hsym hrun => exec_sstep_counts hsst rfl hsym hrun, fun hsst hsym => ?lowsEnd⟩
  case found => simpa [hsst, sstNumber] using exec_sstep_of_stopped (.inl hsst)
  case failed => simpa [hsst, sstNumber] using exec_sstep_of_stopped (.inr hsst)
  case bad =>
    rintro hfound hfailed ⟨b, hsym, hb⟩
    rw [exec_sstep_of_symbol hfound hfailed hsym, scanSymbol_of_bad (BitVec.lt_def.mpr hb)]
    rfl
  case zerosEnd =>
    exact exec_sstep_of_row (by simp [hsst]) (by simp [hsst]) hsym (scanSymbol_seekingZeros_one hsst)
  case highsEnd =>
    exact exec_sstep_of_row (by simp [hsst]) (by simp [hsst]) hsym (scanSymbol_countingHighMarker_zero hsst)
  case lowsEnd =>
    exact exec_sstep_of_row (by simp [hsst]) (by simp [hsst]) hsym (scanSymbol_countingLowMarker_one hsst)

/-- Settles O26: the count is the free value of `countUp`, and nothing else differs from a count that fits. -/
theorem sstepCountPastRegister : Obligations.SstepCountPastRegister := by
  intro s b hfull hsym hstate
  obtain ⟨c, hcounted, rfl⟩ : ∃ c, countedBit s.stat.sst = some c ∧ b = symbol c := by
    rcases hstate with ⟨hsst, rfl⟩ | ⟨hsst, rfl⟩ | ⟨hsst, rfl⟩ <;> rw [hsst] <;> exact ⟨_, rfl, rfl⟩
  refine ⟨Config.freeRun s.free, s.free + 1, ?_⟩
  rw [exec_sstep_of_symbol (ne_found_of_counted hcounted) (ne_failed_of_counted hcounted) hsym,
    scanSymbol_of_counted hcounted, countUp_of_full (s := { s with idx := s.idx + 1 }) hfull, BitVec.ofNat_add,
    BitVec.ofNat_toNat, BitVec.setWidth_eq]
  rfl

/-! ### The repeat mark -/

/-- What `RMARK` reports of a position that does not match: the position, or LEN where the input has ended. -/
def offending (s : State) (pos : Nat) : Nat := if pos < s.len.toNat then pos else s.len.toNat

theorem offending_of_none {s : State} {pos : Nat} (h : symAt s pos = none) : offending s pos = s.len.toNat :=
  if_neg (Nat.not_lt.mpr (symAt_eq_none.mp h))

theorem offending_of_some {s : State} {pos : Nat} {b : Byte} (h : symAt s pos = some b) : offending s pos = pos :=
  if_pos (symAt_eq_some.mp h).1

theorem offending_lt (s : State) (pos : Nat) : offending s pos < 2 ^ 24 := by
  have := s.len.isLt
  unfold offending
  split <;> omega

theorem zeroRunFault_of_zeros {s : State} {pos n : Nat} (h : ∀ k < n, symAt s (pos + k) = some 0) :
    zeroRunFault s pos n = none := by
  induction n generalizing pos with
  | zero => rfl
  | succ n ih =>
    simp only [zeroRunFault, show symAt s pos = some 0 from h 0 n.succ_pos, if_true]
    exact ih fun k hk => Nat.add_right_comm pos k 1 ▸ h (k + 1) (Nat.succ_lt_succ hk)

/-- The first position of a zero run that does not hold a 0 decides the answer. -/
theorem zeroRunFault_of_first {s : State} {pos n k : Nat} (hk : k < n) (hbefore : ∀ j < k, symAt s (pos + j) = some 0)
    (hfault : symAt s (pos + k) ≠ some 0) : zeroRunFault s pos n = some (offending s (pos + k)) := by
  induction n generalizing pos k with
  | zero => exact absurd hk k.not_lt_zero
  | succ n ih =>
    cases k with
    | zero =>
      simp only [Nat.add_zero] at hfault ⊢
      cases hsym : symAt s pos with
      | none => simp only [zeroRunFault, hsym, offending_of_none hsym]
      | some b =>
        have hb : b ≠ 0 := fun h0 => hfault (by rw [hsym, h0])
        simp only [zeroRunFault, hsym, if_neg hb, offending_of_some hsym]
    | succ k =>
      have hshift (j : Nat) : pos + (j + 1) = pos + 1 + j := by omega
      simp only [zeroRunFault, show symAt s pos = some 0 from hbefore 0 k.succ_pos, if_true]
      rw [hshift k]
      exact ih (Nat.lt_of_succ_lt_succ hk) (fun j hj => hshift j ▸ hbefore (j + 1) (Nat.succ_lt_succ hj))
        (hshift k ▸ hfault)

theorem repeatMarkFault_of_one {s : State} {pos : Nat} (h : symAt s pos = some 1) (n : Nat) :
    repeatMarkFault s pos n =
      (zeroRunFault s (pos + 1) n).or (if symAt s (pos + n + 1) = some 0 then some (pos + n + 1) else none) := by
  simp only [repeatMarkFault, h, if_true]
  cases zeroRunFault s (pos + 1) n <;> rfl

/-- Over a 1 and `n` zeros the look-ahead alone decides. -/
theorem repeatMarkFault_of_holds {s : State} {pos n : Nat} (h : Holds s pos (true :: List.replicate n false)) :
    repeatMarkFault s pos n = if symAt s (pos + n + 1) = some 0 then some (pos + n + 1) else none := by
  obtain ⟨hone, hzeros⟩ := holds_cons.mp h
  have hrun : zeroRunFault s (pos + 1) n = none :=
    zeroRunFault_of_zeros fun k hk => by
      rw [hzeros k (by simpa using hk), List.getElem_replicate]
      rfl
  rw [repeatMarkFault_of_one hone, hrun, Option.none_or]

/-- The first position of the mark that does not match decides the answer. -/
theorem repeatMarkFault_of_first {s : State} {pos n k : Nat} (hk : k ≤ n)
    (hbefore : ∀ j < k, symAt s (pos + j) = some (symbol (j == 0)))
    (hfault : symAt s (pos + k) ≠ some (symbol (k == 0))) :
    repeatMarkFault s pos n = some (offending s (pos + k)) := by
  cases k with
  | zero =>
    simp only [Nat.add_zero] at hfault ⊢
    cases hsym : symAt s pos with
    | none => simp only [repeatMarkFault, hsym, offending_of_none hsym]
    | some b =>
      have hb : b ≠ 1 := fun h1 => hfault (by rw [hsym, h1]; rfl)
      simp only [repeatMarkFault, hsym, if_neg hb, offending_of_some hsym]
  | succ k =>
    have hshift (j : Nat) : pos + (j + 1) = pos + 1 + j := by omega
    have hrun : zeroRunFault s (pos + 1) n = some (offending s (pos + 1 + k)) :=
      zeroRunFault_of_first hk (fun j hj => hshift j ▸ hbefore (j + 1) (Nat.succ_lt_succ hj)) (hshift k ▸ hfault)
    rw [repeatMarkFault_of_one (pos := pos) (hbefore 0 k.succ_pos), hrun, hshift k, Option.some_or]

theorem exec_rmark_of_none {s : State} (h : repeatMarkFault s s.idx.toNat s.params.rptZeros.toNat = none) :
    exec .rmark s = .next (ok 0 { s with idx := s.idx + s.params.rptZeros + 1 }) := by
  simp only [exec, execRmark, h]

theorem exec_rmark_of_some {s : State} {e : Nat} (he : e < 2 ^ 24)
    (h : repeatMarkFault s s.idx.toNat s.params.rptZeros.toNat = some e) :
    exec .rmark s = .next (latched .repeatMarkNotFound e s) := by
  have hraise := raise_eq_latched (k := .repeatMarkNotFound) (BitVec.ofNat 24 e) s (by decide)
  rw [count_toNat he] at hraise
  simp only [exec, execRmark, h, hraise]

/-- Settles O31: a mark that stands at IDX is judged by the look-ahead, any other by its first wrong position. -/
theorem rmarkMatchesExactly : Obligations.RmarkMatchesExactly := by
  intro s
  refine ⟨fun hholds hahead => ?_, fun hholds hahead => ?_, fun k hk hbefore hfault => ?_⟩
  · rw [exec_rmark_of_none (by rw [repeatMarkFault_of_holds hholds, if_neg hahead]), ok_eq_returned, BitVec.ofNat_add,
      BitVec.ofNat_add, BitVec.ofNat_toNat, BitVec.ofNat_toNat, BitVec.setWidth_eq, BitVec.setWidth_eq]
    rfl
  · have hinside := (symAt_eq_some.mp hahead).1.trans s.len.isLt
    exact exec_rmark_of_some hinside (by rw [repeatMarkFault_of_holds hholds, if_pos hahead])
  · exact exec_rmark_of_some (offending_lt s _) (repeatMarkFault_of_first hk hbefore hfault)

end Sys2Proof.Proofs
end

section
/-! SUPPORT. The scanner over a sequence of bits (`Scans`): what it makes of a sync mark and of a wrong run
(41_scanner.md R126), and that `SSTEP` and the loop of `SCAN` go the same way. -/

namespace Sys2Proof.Proofs

open Sys2Proof.Machine Sys2Proof.Spec

/-- From `s` the scanner comes to `t` over the bits `q`, and it was neither in `found` nor in `failed` before any of
them. -/
inductive Scans : State → List Bool → State → Prop
  | nil (s : State) : Scans s [] s
  | cons {s t : State} {b : Bool} {q : List Bool} (hfound : s.stat.sst ≠ .found) (hfailed : s.stat.sst ≠ .failed)
      (hrest : Scans (scanSymbol (symbol b) s) q t) : Scans s (b :: q) t

theorem Scans.append {s u t : State} {p q : List Bool} (h : Scans s p u) (hrest : Scans u q t) :
    Scans s (p ++ q) t := by
  induction h with
  | nil s => exact hrest
  | cons hfound hfailed _ ih => exact .cons hfound hfailed (ih hrest)

theorem Scans.one {s t : State} {b : Bool} (hfound : s.stat.sst ≠ .found) (hfailed : s.stat.sst ≠ .failed)
    (h : scanSymbol (symbol b) s = t) : Scans s [b] t :=
  .cons hfound hfailed (h ▸ .nil _)

/-! ### Runs -/

/-- A state counts a run of its bit. -/
theorem scans_replicate {s : State} {x : ScanState} {c : Bool} {n : Nat} (hx : s.stat.sst = x)
    (hcounted : countedBit x = some c) (hfits : s.run.toNat + n < 2 ^ 24) :
    Scans s (List.replicate n c) (scanned x (s.run.toNat + n) n s) := by
  induction n generalizing s with
  | zero =>
    subst hx
    rw [Nat.add_zero, scanned_self]
    exact .nil s
  | succ n ih =>
    subst hx
    have hrun := scanned_run_toNat s.stat.sst (s.run.toNat + 1) 1 s (by omega)
    have hrest := ih (s := scanned s.stat.sst (s.run.toNat + 1) 1 s) rfl (by omega)
    rw [hrun, scanned_scanned, ← scanSymbol_counts hcounted (by omega)] at hrest
    rw [List.replicate_succ, show s.run.toNat + (n + 1) = s.run.toNat + 1 + n by omega, Nat.add_comm n 1]
    exact .cons (ne_found_of_counted hcounted) (ne_failed_of_counted hcounted) hrest

/-- A state entered at the first bit of a run counts the whole run. -/
theorem scans_run {s u : State} {x : ScanState} {c : Bool} {k n : Nat} (hfound : u.stat.sst ≠ .found)
    (hfailed : u.stat.sst ≠ .failed) (henter : scanSymbol (symbol c) u = scanned x 1 (k + 1) s)
    (hcounted : countedBit x = some c) (hpos : 1 ≤ n) (hfits : n < 2 ^ 24) :
    Scans u (List.replicate n c) (scanned x n (k + n) s) := by
  obtain ⟨m, rfl⟩ := Nat.exists_eq_add_of_le' hpos
  have hrun := scanned_run_toNat x 1 (k + 1) s (by decide)
  have hrest := scans_replicate (s := scanned x 1 (k + 1) s) (n := m) rfl hcounted (by omega)
  rw [hrun, scanned_scanned, Nat.add_assoc, Nat.add_comm 1 m] at hrest
  exact .cons hfound hfailed (henter ▸ hrest)

/-! ### The ends of the runs of a mark -/

section RunEnds

variable {r : Nat} (n : Nat) (s : State)

theorem scanSymbol_ends_zeros (hr : r < 2 ^ 24) :
    scanSymbol 1 (scanned .seekingZeros r n s) =
      if (scanProfile s).minZ.toNat ≤ r then scanned .countingHighMarker 1 (n + 1) s
      else missed (scanned .seekingZeros r n s) := by
  rw [scanSymbol_seekingZeros_one rfl, scanned_run_toNat _ _ _ _ hr, scanProfile_scanned, scanned_scanned]

theorem scanSymbol_ends_highs (hr : r < 2 ^ 24) :
    scanSymbol 0 (scanned .countingHighMarker r n s) =
      if r = (scanProfile s).hRun.toNat then scanned .countingLowMarker 1 (n + 1) s
      else missed (scanned .countingHighMarker r n s) := by
  rw [scanSymbol_countingHighMarker_zero rfl, scanned_run_toNat _ _ _ _ hr, scanProfile_scanned, scanned_scanned]

theorem scanSymbol_ends_lows (hr : r < 2 ^ 24) :
    scanSymbol 1 (scanned .countingLowMarker r n s) =
      if r = (scanProfile s).lRun.toNat then scanned .found r (n + 1) s
      else missed (scanned .countingLowMarker r n s) := by
  rw [scanSymbol_countingLowMarker_one rfl, scanned_run_toNat _ _ _ _ hr, scanProfile_scanned, scanned_scanned]

end RunEnds

/-! ### The sync mark, from a fresh scan state -/

/-- The scan state after `SRST` (41_scanner.md R121). -/
def Fresh (s : State) : Prop := s.stat.sst = .seekingZeros ∧ s.run = 0

section Mark

variable {s : State} {z h l : Nat}

theorem scans_zeros (hfresh : Fresh s) (hz : z < 2 ^ 24) :
    Scans s (List.replicate z false) (scanned .seekingZeros z z s) := by
  obtain ⟨hsst, hrun⟩ := hfresh
  have hcount : s.run.toNat + z = z := by simp [hrun]
  have hzeros := scans_replicate (n := z) hsst rfl (by omega)
  rwa [hcount] at hzeros

theorem scans_highs (hfresh : Fresh s) (hz : z < 2 ^ 24) (hmin : (scanProfile s).minZ.toNat ≤ z) (hpos : 1 ≤ h)
    (hh : h < 2 ^ 24) :
    Scans s (List.replicate z false ++ List.replicate h true) (scanned .countingHighMarker h (z + h) s) :=
  (scans_zeros hfresh hz).append
    (scans_run (by simp) (by simp) ((scanSymbol_ends_zeros z s hz).trans (if_pos hmin)) rfl hpos hh)

theorem scans_lows (hfresh : Fresh s) (hz : z < 2 ^ 24) (hmin : (scanProfile s).minZ.toNat ≤ z)
    (hhigh : 1 ≤ (scanProfile s).hRun.toNat) (hpos : 1 ≤ l) (hl : l < 2 ^ 24) :
    Scans s (List.replicate z false ++ List.replicate (scanProfile s).hRun.toNat true ++ List.replicate l false)
      (scanned .countingLowMarker l (z + (scanProfile s).hRun.toNat + l) s) :=
  have hh := (scanProfile s).hRun.isLt
  (scans_highs hfresh hz hmin hhigh hh).append
    (scans_run (by simp) (by simp) ((scanSymbol_ends_highs _ s hh).trans (if_pos rfl)) rfl hpos hl)

/-- The mark the active profile accepts is found (41_scanner.md R122). -/
theorem scans_mark (hfresh : Fresh s) (hz : z < 2 ^ 24) (hmin : (scanProfile s).minZ.toNat ≤ z)
    (hhigh : 1 ≤ (scanProfile s).hRun.toNat) (hlow : 1 ≤ (scanProfile s).lRun.toNat) :
    Scans s (syncMark z (scanProfile s).hRun.toNat (scanProfile s).lRun.toNat)
      (scanned .found (scanProfile s).lRun.toNat
        (z + (scanProfile s).hRun.toNat + (scanProfile s).lRun.toNat + 1) s) :=
  have hl := (scanProfile s).lRun.isLt
  (scans_lows hfresh hz hmin hhigh hlow hl).append
    (.one (by simp) (by simp) ((scanSymbol_ends_lows _ s hl).trans (if_pos rfl)))

/-! A wrong run misses at the bit that ends it (41_scanner.md R126). -/

theorem scans_shortZeros (hfresh : Fresh s) (hz : z < 2 ^ 24) (hmin : z < (scanProfile s).minZ.toNat) :
    Scans s (List.replicate z false ++ [true]) (missed (scanned .seekingZeros z z s)) :=
  (scans_zeros hfresh hz).append
    (.one (by simp) (by simp) ((scanSymbol_ends_zeros z s hz).trans (if_neg (Nat.not_le.mpr hmin))))

theorem scans_wrongHighs (hfresh : Fresh s) (hz : z < 2 ^ 24) (hmin : (scanProfile s).minZ.toNat ≤ z) (hpos : 1 ≤ h)
    (hh : h < 2 ^ 24) (hne : h ≠ (scanProfile s).hRun.toNat) :
    Scans s (List.replicate z false ++ List.replicate h true ++ [false])
      (missed (scanned .countingHighMarker h (z + h) s)) :=
  (scans_highs hfresh hz hmin hpos hh).append
    (.one (by simp) (by simp) ((scanSymbol_ends_highs _ s hh).trans (if_neg hne)))

theorem scans_wrongLows (hfresh : Fresh s) (hz : z < 2 ^ 24) (hmin : (scanProfile s).minZ.toNat ≤ z)
    (hhigh : 1 ≤ (scanProfile s).hRun.toNat) (hpos : 1 ≤ l) (hl : l < 2 ^ 24) (hne : l ≠ (scanProfile s).lRun.toNat) :
    Scans s (syncMark z (scanProfile s).hRun.toNat l)
      (missed (scanned .countingLowMarker l (z + (scanProfile s).hRun.toNat + l) s)) :=
  (scans_lows hfresh hz hmin hhigh hpos hl).append
    (.one (by simp) (by simp) ((scanSymbol_ends_lows _ s hl).trans (if_neg hne)))

end Mark

/-! ### Over the input -/

/-- Held bits lie inside the input. -/
theorem holds_length_le {s : State} {pos : Nat} {q : List Bool} (h : Holds s pos q) (hq : q ≠ []) :
    pos + q.length ≤ s.len.toNat := by
  have hpos := List.length_pos_of_ne_nil hq
  have hlast := (symAt_eq_some.mp (h (q.length - 1) (by omega))).1
  omega

/-- A transition on a symbol of the input moves IDX without wrapping. -/
theorem scanSymbol_idx_toNat {s : State} {x : Byte} (b : Byte) (hsym : symAt s s.idx.toNat = some x) :
    (scanSymbol b s).idx.toNat = s.idx.toNat + 1 := by
  obtain ⟨hinside, -⟩ := symAt_eq_some.mp hsym
  rw [scanSymbol_idx]
  exact add_ofNat_toNat (Nat.lt_of_le_of_lt (Nat.succ_le_of_lt hinside) s.len.isLt)

theorem holds_scanSymbol {s : State} {b : Bool} {q : List Bool} (h : Holds s s.idx.toNat (b :: q)) :
    Holds (scanSymbol (symbol b) s) (scanSymbol (symbol b) s).idx.toNat q := by
  obtain ⟨hhead, htail⟩ := holds_cons.mp h
  rw [scanSymbol_idx_toNat _ hhead]
  exact holds_congr htail (by rw [scanSymbol_frame]) (scanSymbol_len _ s)

/-- The same state with `r` as the results delivered so far. -/
def withResults (r : List Word) (s : State) : State := { s with results := r }

@[simp] theorem withResults_stat (r : List Word) (s : State) : (withResults r s).stat = s.stat := rfl

theorem countUp_withResults (r : List Word) (s : State) : countUp (withResults r s) = withResults r (countUp s) := by
  rw [countUp, countUp, apply_ite (withResults r)]
  rfl

/-- Results delivered before play no part in a transition: each row chooses alike, and its branches leave them. -/
theorem scanBit_withResults (b : Bool) (pos : Count) (r : List Word) (s : State) :
    scanBit b pos (withResults r s) = withResults r (scanBit b pos s) := by
  unfold scanBit
  rw [withResults_stat]
  split
  case h_1 | h_3 | h_5 => exact countUp_withResults r s
  case h_2 | h_4 | h_6 =>
    rw [apply_ite (withResults r)]
    rfl
  case h_7 | h_8 => rfl

theorem scanSymbol_withResults (b : Byte) (r : List Word) (s : State) :
    scanSymbol b (withResults r s) = withResults r (scanSymbol b s) := by
  unfold scanSymbol
  split
  · rfl
  · exact scanBit_withResults (b == 1) s.idx r { s with idx := s.idx + 1 }

/-- `SSTEP` over held bits goes as `Scans` says. -/
theorem sstepTimes_of_scans {s t : State} {q : List Bool} (h : Scans s q t) (hq : Holds s s.idx.toNat q)
    (r : List Word) : ∃ r', sstepTimes q.length (withResults r s) = withResults r' t := by
  induction h generalizing r with
  | nil s => exact ⟨r, rfl⟩
  | @cons s t b q hfound hfailed _ ih =>
    have hexec := exec_sstep_of_symbol (s := withResults r s) hfound hfailed (holds_cons.mp hq).1
    rw [scanSymbol_withResults] at hexec
    obtain ⟨r', hrest⟩ := ih (holds_scanSymbol hq) (r ++ [answer 0 (sstNumber (scanSymbol (symbol b) s).stat.sst)])
    refine ⟨r', ?_⟩
    rw [List.length_cons, sstepTimes, hexec]
    exact hrest

end Sys2Proof.Proofs
end

section
/-! SUPPORT. The loop of `SCAN` (41_scanner.md R124): over held bits, under an invariant, and beside the host's loop. -/

namespace Sys2Proof.Proofs

open Sys2Proof.Machine Sys2Proof.Spec

theorem exec_scan (s : State) : exec .scan s = .next (scanLoop (s.len.toNat - s.idx.toNat) (scannerReset s)) := rfl

/-! ### One turn -/

section Turn

variable {s : State}

theorem scanLoop_of_found (n : Nat) (h : s.stat.sst = .found) : scanLoop n s = ok s.idx s := by
  cases n <;> rw [scanLoop, if_pos h]

theorem scanLoop_of_end (n : Nat) (h : s.stat.sst ≠ .found) (hsym : symAt s s.idx.toNat = none) :
    scanLoop n s = raise .tapeMarkNotFound s.idx (restart s) := by
  cases n with
  | zero => rw [scanLoop, if_neg h]
  | succ n => simp only [scanLoop, if_neg h, hsym]

theorem scanLoop_succ {b : Byte} (n : Nat) (h : s.stat.sst ≠ .found) (hsym : symAt s s.idx.toNat = some b) :
    scanLoop (n + 1) s = scanLoop n (scanSymbol b (restart s)) := by
  simp only [scanLoop, if_neg h, hsym]

theorem restart_of_ne_failed (h : s.stat.sst ≠ .failed) : restart s = s := if_neg h

theorem restart_of_failed (h : s.stat.sst = .failed) : restart s = scannerReset s := if_pos h

theorem restart_sst_ne_found (h : s.stat.sst ≠ .found) : (restart s).stat.sst ≠ .found := by
  unfold restart
  split
  · simp
  · exact h

theorem restart_withResults (r : List Word) (s : State) : restart (withResults r s) = withResults r (restart s) :=
  (apply_ite (withResults r) (s.stat.sst = .failed) (scannerReset s) s).symm

theorem restart_results (s : State) : (restart s).results = s.results := by rw [restart_frame]

theorem scanSymbol_results (b : Byte) (s : State) : (scanSymbol b s).results = s.results := by rw [scanSymbol_frame]

/-- A restart reads on at the same symbol. -/
theorem symAt_restart_idx (s : State) : symAt (restart s) (restart s).idx.toNat = symAt s s.idx.toNat := by
  rw [restart_idx]
  exact symAt_congr (restart_bits s) (restart_len s) _

theorem scanSymbol_restart_idx_toNat {x : Byte} (b : Byte) (hsym : symAt s s.idx.toNat = some x) :
    (scanSymbol b (restart s)).idx.toNat = s.idx.toNat + 1 := by
  rw [scanSymbol_idx_toNat b ((symAt_restart_idx s).trans hsym), restart_idx]

end Turn

/-- The loop over held bits goes as `Scans` says. -/
theorem scanLoop_of_scans {s t : State} {q : List Bool} (h : Scans s q t) (hq : Holds s s.idx.toNat q) (n : Nat) :
    scanLoop (n + q.length) s = scanLoop n t := by
  induction h with
  | nil s => rfl
  | @cons s t b q hfound hfailed _ ih =>
    rw [List.length_cons, ← Nat.add_assoc, scanLoop_succ _ hfound (holds_cons.mp hq).1, restart_of_ne_failed hfailed]
    exact ih (holds_scanSymbol hq)

/-! ### Induction over the loop -/

/-- The turns the loop takes from `s` with fuel `n`, up to its end: the mark is found, or the input has ended. -/
inductive ScanTurns : Nat → State → Prop
  | found {s : State} (n : Nat) (hfound : s.stat.sst = .found) : ScanTurns n s
  | atEnd {s : State} (n : Nat) (hfound : s.stat.sst ≠ .found) (hsym : symAt s s.idx.toNat = none) : ScanTurns n s
  | turn {s : State} {n : Nat} {b : Byte} (hfound : s.stat.sst ≠ .found) (hsym : symAt s s.idx.toNat = some b)
      (hrest : ScanTurns n (scanSymbol b (restart s))) : ScanTurns (n + 1) s

/-- The loop comes to its end when the fuel covers the symbols left. -/
theorem scanTurns_of_fuel {n : Nat} {s : State} (hfuel : s.len.toNat - s.idx.toNat ≤ n) : ScanTurns n s := by
  induction n generalizing s with
  | zero =>
    by_cases hfound : s.stat.sst = .found
    · exact .found 0 hfound
    · exact .atEnd 0 hfound (symAt_eq_none.mpr (by omega))
  | succ n ih =>
    by_cases hfound : s.stat.sst = .found
    · exact .found _ hfound
    cases hsym : symAt s s.idx.toNat with
    | none => exact .atEnd _ hfound hsym
    | some b =>
      refine .turn hfound hsym (ih ?_)
      rw [scanSymbol_len, restart_len, scanSymbol_restart_idx_toNat b hsym]
      omega

/-- The two ends of the loop, with what restarts and transitions keep. -/
theorem scanLoop_ends {P : State → Prop} (hrestart : ∀ u, P u → P (restart u))
    (hsymbol : ∀ u b, P u → u.stat.sst ≠ .found → u.stat.sst ≠ .failed → symAt u u.idx.toNat = some b →
      P (scanSymbol b u))
    {n : Nat} {s : State} (hturns : ScanTurns n s) (hs : P s) :
    ∃ u, P u ∧ ((u.stat.sst = .found ∧ scanLoop n s = ok u.idx u) ∨
      (u.stat.sst ≠ .found ∧ u.stat.sst ≠ .failed ∧ u.len.toNat ≤ u.idx.toNat ∧
        scanLoop n s = raise .tapeMarkNotFound u.idx u)) := by
  induction hturns with
  | @found s n hfound => exact ⟨s, hs, .inl ⟨hfound, scanLoop_of_found n hfound⟩⟩
  | @atEnd s n hfound hsym =>
    refine ⟨restart s, hrestart s hs, .inr ⟨restart_sst_ne_found hfound, restart_sst_ne s, ?_, ?_⟩⟩
    · rw [restart_len, restart_idx]
      exact symAt_eq_none.mp hsym
    · rw [scanLoop_of_end n hfound hsym, restart_idx]
  | @turn s n b hfound hsym _ ih =>
    rw [scanLoop_succ n hfound hsym]
    refine ih (hsymbol _ _ (hrestart s hs) (restart_sst_ne_found hfound) (restart_sst_ne s) ?_)
    rwa [symAt_restart_idx]

/-! ### RUN and IDX under the loop -/

/-- What a scan that began at `s` has done when it is at `u`: RUN counts symbols of the input only (the part of
10_state.md R23 that holds), so it never leaves the register, and a mark that was found has LRUN low marker bits. -/
structure ScanReached (s u : State) : Prop where
  frame : ∃ x r i e, u = { s with stat := ⟨x, s.stat.flt, s.stat.err⟩, run := r, idx := i, eidx := e }
  run_le_idx : u.run.toNat ≤ u.idx.toNat
  run_le_len : u.run.toNat ≤ s.len.toNat
  idx_le : s.idx.toNat ≤ u.idx.toNat
  idx_le_max : u.idx.toNat ≤ max s.idx.toNat s.len.toNat
  found : u.stat.sst = .found → u.run = (scanProfile s).lRun ∧ s.idx.toNat < u.idx.toNat

namespace ScanReached

variable {s u : State}

theorem scannerReset_self (s : State) : ScanReached s (scannerReset s) where
  frame := ⟨_, _, _, _, rfl⟩
  run_le_idx := Nat.zero_le _
  run_le_len := Nat.zero_le _
  idx_le := le_rfl
  idx_le_max := Nat.le_max_left ..
  found := by simp

theorem len (h : ScanReached s u) : u.len = s.len := by
  obtain ⟨x, r, i, e, rfl⟩ := h.frame
  rfl

theorem profile (h : ScanReached s u) : scanProfile u = scanProfile s := by
  obtain ⟨x, r, i, e, rfl⟩ := h.frame
  rfl

theorem scannerReset (h : ScanReached s u) : ScanReached s (scannerReset u) where
  frame := by
    obtain ⟨x, r, i, e, rfl⟩ := h.frame
    exact ⟨_, _, _, _, rfl⟩
  run_le_idx := Nat.zero_le _
  run_le_len := Nat.zero_le _
  idx_le := h.idx_le
  idx_le_max := h.idx_le_max
  found := by simp

theorem restart (h : ScanReached s u) : ScanReached s (restart u) := by
  unfold Machine.restart
  split
  · exact h.scannerReset
  · exact h

/-- A transition that goes on, over a symbol of the input. -/
theorem scanned (h : ScanReached s u) (hinside : u.idx.toNat < s.len.toNat) {x : ScanState} {r : Nat}
    (hr : r ≤ u.run.toNat + 1) (hfound : x = .found → r = (scanProfile s).lRun.toNat) :
    ScanReached s (scanned x r 1 u) := by
  have hidx_le := h.idx_le
  have hrun_le := h.run_le_idx
  have hlen := s.len.isLt
  have hrun := scanned_run_toNat x r 1 u (by omega)
  have hidx := scanned_idx_toNat x r 1 u (by omega)
  constructor
  case frame =>
    obtain ⟨x, r, i, e, rfl⟩ := h.frame
    exact ⟨_, _, _, _, rfl⟩
  case found =>
    intro hx
    exact ⟨BitVec.eq_of_toNat_eq (hrun.trans (hfound hx)), by omega⟩
  all_goals omega

/-- A transition that misses the mark, over a symbol of the input. -/
theorem missed (h : ScanReached s u) (hinside : u.idx.toNat < s.len.toNat) : ScanReached s (missed u) := by
  have hidx_le := h.idx_le
  have hrun_le := h.run_le_idx
  have hlen := s.len.isLt
  have hidx : (Proofs.missed u).idx.toNat = u.idx.toNat + 1 := count_toNat (by omega)
  constructor
  case frame =>
    obtain ⟨x, r, i, e, rfl⟩ := h.frame
    exact ⟨_, _, _, _, rfl⟩
  case run_le_idx => exact hrun_le.trans (by omega)
  case run_le_len => exact h.run_le_len
  case found => simp
  all_goals omega

theorem scanSymbol (h : ScanReached s u) {b : Byte} (hfound : u.stat.sst ≠ .found) (hfailed : u.stat.sst ≠ .failed)
    (hsym : symAt u u.idx.toNat = some b) : ScanReached s (scanSymbol b u) := by
  obtain ⟨hinside, -⟩ := symAt_eq_some.mp hsym
  rw [h.len] at hinside
  have hlen := s.len.isLt
  have hrun_le := h.run_le_idx
  rcases scanSymbol_cases b hfound hfailed (by omega) with ⟨x, hx, hstep | hstep⟩ | ⟨hlow, hstep⟩ | hstep <;>
    rw [hstep]
  · exact h.scanned hinside le_rfl fun hfound => absurd hfound hx
  · exact h.scanned hinside (Nat.le_add_left 1 _) fun hfound => absurd hfound hx
  · exact h.scanned hinside (Nat.le_succ _) fun _ => h.profile ▸ hlow
  · exact h.missed hinside

end ScanReached

/-- The two ways `SCAN` completes. -/
theorem exec_scan_ends (s : State) :
    ∃ u, ScanReached s u ∧ ((u.stat.sst = .found ∧ exec .scan s = .next (returned u.idx.toNat u)) ∨
      (u.stat.sst ≠ .found ∧ u.stat.sst ≠ .failed ∧ s.len.toNat ≤ u.idx.toNat ∧
        exec .scan s = .next (latched .tapeMarkNotFound u.idx.toNat u))) := by
  obtain ⟨u, hreached, hend⟩ := scanLoop_ends (P := ScanReached s) (fun _ h => h.restart) (fun _ _ h => h.scanSymbol)
    (scanTurns_of_fuel le_rfl) (.scannerReset_self s)
  refine ⟨u, hreached, ?_⟩
  rw [hreached.len, ok_eq_returned, raise_eq_latched _ _ (by decide)] at hend
  rcases hend with ⟨hfound, hloop⟩ | ⟨hfound, hfailed, hlen, hloop⟩
  · exact .inl ⟨hfound, congrArg _ hloop⟩
  · exact .inr ⟨hfound, hfailed, hlen, congrArg _ hloop⟩

/-! ### The host's loop -/

theorem latest_returned (v : Nat) (s : State) : latest (returned v s) = answer 0 v := by simp [latest, returned]

/-- At the end of the input the host's loop stops with the `EndOfInput` of `SSTEP`. -/
theorem hostScan_succ_of_end {s : State} (n : Nat) (hfound : s.stat.sst ≠ .found) (hfailed : s.stat.sst ≠ .failed)
    (hsym : symAt s s.idx.toNat = none) : hostScan (n + 1) s = (latched .endOfInput s.idx.toNat s, false) := by
  have herror : isOk (latest (latched .endOfInput s.idx.toNat s)) = false := by
    rw [← raise_eq_latched _ _ (by decide)]
    exact isOk_latest_raise _ _ _ (by decide)
  have hne (v : Nat) (hv : isOk (answer 0 v) = true) : latest (latched .endOfInput s.idx.toNat s) ≠ answer 0 v := by
    intro h
    rw [h, hv] at herror
    cases herror
  simp only [hostScan, exec_sstep_of_end hfound hfailed hsym, if_neg (hne 3 (by decide)), if_neg (hne 4 (by decide)),
    herror, if_false, Bool.false_eq_true]

/-- A transition that finds the mark ends the host's loop. -/
theorem hostScan_succ_of_found {s : State} {b : Byte} (n : Nat) (hfound : s.stat.sst ≠ .found)
    (hfailed : s.stat.sst ≠ .failed) (hsym : symAt s s.idx.toNat = some b)
    (hstep : (scanSymbol b s).stat.sst = .found) : hostScan (n + 1) s = (returned 3 (scanSymbol b s), true) := by
  simp only [hostScan, exec_sstep_of_symbol hfound hfailed hsym, hstep, sstNumber, latest_returned, if_true]

/-- After any other transition the host's loop goes on, from the scan state reset if it had failed. -/
theorem hostScan_succ_of_symbol {s : State} {b : Byte} (n : Nat) (hfound : s.stat.sst ≠ .found)
    (hfailed : s.stat.sst ≠ .failed) (hsym : symAt s s.idx.toNat = some b)
    (hstep : (scanSymbol b s).stat.sst ≠ .found) :
    ∃ r, hostScan (n + 1) s = hostScan n (withResults r (restart (scanSymbol b s))) := by
  simp only [hostScan, exec_sstep_of_symbol hfound hfailed hsym, latest_returned]
  cases hsst : (scanSymbol b s).stat.sst with
  | found => exact absurd hsst hstep
  | failed =>
    rw [restart_of_failed hsst]
    exact ⟨_, rfl⟩
  | seekingZeros | countingHighMarker | countingLowMarker =>
    rw [restart_of_ne_failed (by simp [hsst])]
    exact ⟨_, rfl⟩

/-- Beside the host's loop, which keeps its own results, the loop of `SCAN` leaves the same state but for the end's
result and error code. -/
theorem scanLoop_of_hostScan {n : Nat} {s t : State} {found : Bool} {r : List Word} (hturns : ScanTurns n s)
    (hs : s.stat.sst ≠ .found) (h : hostScan (n + 1) (withResults r (restart s)) = (t, found)) :
    scanLoop n s =
      if found then { t with results := s.results ++ [answer 0 t.idx.toNat] }
      else
        { t with
          stat := ⟨t.stat.sst, t.stat.flt, some .tapeMarkNotFound⟩,
          results := s.results ++ [answer 4 t.idx.toNat] } := by
  induction hturns generalizing r with
  | found n hfound => exact absurd hfound hs
  | @atEnd s n hfound hsym =>
    have hhost := hostScan_succ_of_end (s := withResults r (restart s)) n (restart_sst_ne_found hfound)
      (restart_sst_ne s) ((symAt_restart_idx s).trans hsym)
    cases hhost.symm.trans h
    rw [scanLoop_of_end n hfound hsym, raise_eq_latched _ _ (by decide), ← restart_idx s, ← restart_results s]
    rfl
  | @turn s n b hfound hsym _ ih =>
    have hfound' := restart_sst_ne_found hfound
    have hsym' := (symAt_restart_idx s).trans hsym
    have hstep := scanSymbol_withResults b r (restart s)
    rw [scanLoop_succ n hfound hsym, ← restart_results s, ← scanSymbol_results b (restart s)]
    by_cases hmark : (scanSymbol b (restart s)).stat.sst = .found
    · have hhost := hostScan_succ_of_found (s := withResults r (restart s)) (n + 1) hfound' (restart_sst_ne s) hsym'
        (by rwa [hstep])
      cases hhost.symm.trans h
      rw [scanLoop_of_found n hmark, ok_eq_returned, hstep]
      rfl
    · obtain ⟨r', hhost⟩ := hostScan_succ_of_symbol (s := withResults r (restart s)) (n + 1) hfound'
        (restart_sst_ne s) hsym' (by rwa [hstep])
      rw [hhost, hstep, restart_withResults] at h
      exact ih hmark h

end Sys2Proof.Proofs
end

section
/-! The obligations of 41_scanner.md on sequences of symbols: the exactness of `SSTEP`, and `SCAN`. -/

namespace Sys2Proof.Proofs

open Sys2Proof.Machine Sys2Proof.Spec

theorem length_syncMark (zeros high low : Nat) : (syncMark zeros high low).length = zeros + high + low + 1 := by
  simp [syncMark, Nat.add_assoc]

section Steps

variable {s : State} {x : ScanState} {q : List Bool} {r n : Nat}

/-- Bits over which the scanner finds the mark at the last one: IDX is right after them. -/
theorem sstepTimes_found (h : Scans s q (scanned .found r (n + 1) s)) (hq : Holds s s.idx.toNat q)
    (hn : q.length = n + 1) :
    (sstepTimes (n + 1) s).stat.sst = .found ∧ (sstepTimes (n + 1) s).idx.toNat = s.idx.toNat + (n + 1) := by
  have hinside := holds_length_le hq (List.ne_nil_of_length_eq_add_one hn)
  have hlen := s.len.isLt
  obtain ⟨r', hsteps⟩ : ∃ r', sstepTimes q.length s = _ := sstepTimes_of_scans h hq s.results
  rw [hn] at hsteps
  rw [hsteps]
  exact ⟨rfl, scanned_idx_toNat .found r _ s (by omega)⟩

/-- Bits over which the scanner misses the mark at the last one: EIDX is its index, IDX one past it. -/
theorem sstepTimes_missed (h : Scans s q (missed (scanned x r n s))) (hq : Holds s s.idx.toNat q)
    (hn : q.length = n + 1) :
    (sstepTimes (n + 1) s).stat.sst = .failed ∧ (sstepTimes (n + 1) s).eidx.toNat = s.idx.toNat + n ∧
      (sstepTimes (n + 1) s).idx.toNat = s.idx.toNat + n + 1 := by
  have hinside := holds_length_le hq (List.ne_nil_of_length_eq_add_one hn)
  have hlen := s.len.isLt
  obtain ⟨r', hsteps⟩ : ∃ r', sstepTimes q.length s = _ := sstepTimes_of_scans h hq s.results
  have hlast := scanned_idx_toNat x r n s (by omega)
  rw [hn] at hsteps
  rw [hsteps, ← hlast]
  exact ⟨rfl, rfl, count_toNat (by omega)⟩

end Steps

/-- Settles O27: the scanner's way over each of the four sequences (`scans_mark`, `scans_shortZeros`,
`scans_wrongHighs`, `scans_wrongLows`). -/
theorem scannerIsExact : Obligations.ScannerIsExact := by
  intro s z hsst hrun
  have hfresh : Fresh s := ⟨hsst, hrun⟩
  have hlen := s.len.isLt
  refine ⟨fun hmin hhigh hlow hholds => ?_, fun hmin hholds => ?_, fun h hmin hpos hne hholds => ?_,
    fun l hmin hhigh hpos hne hholds => ?_⟩ <;>
    have hinside := holds_length_le hholds (by simp [syncMark]) <;>
    simp only [length_syncMark, List.length_append, List.length_replicate, List.length_singleton] at hinside
  · exact sstepTimes_found (scans_mark hfresh (by omega) hmin hhigh hlow) hholds (length_syncMark ..)
  · exact sstepTimes_missed (scans_shortZeros hfresh (by omega) hmin) hholds (by simp)
  · exact sstepTimes_missed (scans_wrongHighs hfresh (by omega) hmin hpos (by omega) hne) hholds
      (by simp [Nat.add_assoc])
  · exact sstepTimes_missed (scans_wrongLows hfresh (by omega) hmin hhigh hpos (by omega) hne) hholds
      (length_syncMark ..)

theorem fresh_scannerReset (s : State) : Fresh (scannerReset s) := ⟨rfl, rfl⟩

/-- Held bits over which the scanner, once reset, finds the mark. -/
theorem exec_scan_of_scans {s t : State} {q : List Bool} (h : Scans (scannerReset s) q t)
    (hq : Holds s s.idx.toNat q) (hinside : s.idx.toNat + q.length ≤ s.len.toNat) (ht : t.stat.sst = .found) :
    exec .scan s = .next (returned t.idx.toNat t) := by
  have hfuel : s.len.toNat - s.idx.toNat = s.len.toNat - (s.idx.toNat + q.length) + q.length := by omega
  rw [exec_scan, hfuel, scanLoop_of_scans h (holds_congr hq rfl rfl), scanLoop_of_found _ ht, ok_eq_returned]

/-- Settles O28: the loop goes over the mark as `SSTEP` does (`scans_mark`), and ends at `found`. -/
theorem scanFindsMarkAtIndex : Obligations.ScanFindsMarkAtIndex := by
  intro s z p hmin hhigh hlow hholds after
  have hinside := holds_length_le hholds (by simp [syncMark])
  have hlen := s.len.isLt
  have hlength := length_syncMark z p.hRun.toNat p.lRun.toNat
  have hscans : Scans (scannerReset s) _ (scanned .found p.lRun.toNat (z + p.hRun.toNat + p.lRun.toNat + 1) _) :=
    scans_mark (fresh_scannerReset s) (by omega) hmin hhigh hlow
  have hidx := scanned_idx_toNat .found p.lRun.toNat (z + p.hRun.toNat + p.lRun.toNat + 1) (scannerReset s)
    (by rw [scannerReset_idx]; omega)
  rw [exec_scan_of_scans hscans hholds hinside rfl, hidx, scanned, BitVec.ofNat_toNat, BitVec.setWidth_eq]
  rfl

/-- Settles O29: the two ends of the loop, with what it keeps (`ScanReached`). -/
theorem scanEndsFoundOrAtEnd : Obligations.ScanEndsFoundOrAtEnd := by
  intro s
  obtain ⟨u, hreached, hend⟩ := exec_scan_ends s
  have hrun := hreached.run_le_len
  have hidx_le := hreached.idx_le
  have hidx_max := hreached.idx_le_max
  rcases hend with ⟨hfound, hexec⟩ | ⟨hfound, hfailed, hpast, hexec⟩
  · obtain ⟨hlow, hmoved⟩ := hreached.found hfound
    have hinside : u.idx.toNat ≤ s.len.toNat := by omega
    obtain ⟨x, r, i, e, rfl⟩ := hreached.frame
    exact ⟨_, hexec, rfl, rfl, hrun, .inl ⟨hfound, rfl, hlow, hmoved, hinside, rfl⟩⟩
  · have hend : u.idx.toNat = max s.idx.toNat s.len.toNat := by omega
    have heidx : BitVec.ofNat 24 u.idx.toNat = u.idx := by simp
    obtain ⟨x, r, i, e, rfl⟩ := hreached.frame
    exact ⟨_, hexec, rfl, rfl, hrun, .inr ⟨hfound, hfailed, rfl, hend, heidx, rfl⟩⟩

/-- Settles O30: `SCAN` begins at the state `SRST` leaves, and its loop goes beside the host's. -/
theorem scanIsHostLoop : Obligations.ScanIsHostLoop := by
  intro s s0 t found hsrst hhost
  obtain rfl := Host.Outcome.next.inj hsrst
  have hloop := scanLoop_of_hostScan (s := scannerReset s) (r := s.results ++ [resultWord 0 0])
    (scanTurns_of_fuel le_rfl) (by simp) hhost
  exact congrArg _ hloop

end Sys2Proof.Proofs
end

section
/-! The obligations of 42_output.md on single commands: the output stage, and the commands that hand it bits and touch
no register. -/

namespace Sys2Proof.Proofs

open Sys2Proof.Machine Sys2Proof.Spec

/-- Settles O37. -/
theorem emitFollowsOutputMode : Obligations.EmitFollowsOutputMode := fun s q => emit_eq_emitted q s

theorem exec_emitb (b : Bool) (s : State) : exec (.emitb b) s = .next (ok 0 (emit [b] s)) := rfl

theorem exec_gap (n : Count) (s : State) :
    exec (.gap n) s = .next (ok 0 (emit (List.replicate n.toNat false) s)) := rfl

theorem exec_mark (sec : Section) (s : State) :
    exec (.mark sec) s = .next (ok 0 (emit (markPattern (markLengths sec s)) s)) := rfl

theorem exec_rpt (s : State) : exec .rpt s = .next (ok 0 (emit (repeatPattern s.params.rptZeros) s)) := rfl

/-- A command that answers `OK` once it has handed `q` to the output stage, in the terms of the claims. -/
theorem next_ok_emit (q : List Bool) (s : State) :
    Host.Outcome.next (φ := Fault) (ρ := Refusal) (ok 0 (emit q s)) = .next (returned 0 (emitted q s)) := by
  rw [ok_eq_returned, emit_eq_emitted]
  rfl

/-- Settles O33. -/
theorem emitbEmitsOneBit : Obligations.EmitbEmitsOneBit := fun s b => (exec_emitb b s).trans (next_ok_emit _ s)

/-- Settles O34. -/
theorem gapEmitsZeros : Obligations.GapEmitsZeros := fun s n => (exec_gap n s).trans (next_ok_emit _ s)

theorem markPattern_eq_syncMark (m : MarkLengths) :
    markPattern m = syncMark m.gap.toNat m.markHi.toNat m.markLo.toNat := rfl

/-- Settles O35. -/
theorem markEmitsSyncMark : Obligations.MarkEmitsSyncMark := by
  intro s sec m
  rw [exec_mark, markPattern_eq_syncMark, next_ok_emit]
  rfl

/-- Settles O36. -/
theorem rptEmitsRepeatMark : Obligations.RptEmitsRepeatMark := fun s => (exec_rpt s).trans (next_ok_emit _ s)

end Sys2Proof.Proofs
end

section
/-! An emitted sync mark and the scanner (42_output.md R146): under WF1 and WF2 of 00_scope.md R8 the mark of a section
is one that the section's scanner profile accepts. -/

namespace Sys2Proof.Proofs

open Sys2Proof.Machine Sys2Proof.Spec

theorem wf1At_iff (p : Params) (sec : Section) :
    p.wf1At sec = true ↔ 1 ≤ (p.scan.get sec).hRun.toNat ∧ 1 ≤ (p.scan.get sec).lRun.toNat := by
  simp [Params.wf1At, BitVec.le_def]

theorem wf2At_iff (p : Params) (pp : PulseProfile) (sec : Section) :
    p.wf2At pp sec = true ↔
      (p.scan.get sec).minZ.toNat ≤ ((p.pulse.get pp).marks.get sec).gap.toNat ∧
        ((p.pulse.get pp).marks.get sec).markHi = (p.scan.get sec).hRun ∧
        ((p.pulse.get pp).marks.get sec).markLo = (p.scan.get sec).lRun := by
  simp [Params.wf2At, BitVec.le_def, and_assoc]

theorem emitted_obits_of_bits {q : List Bool} {s : State} (h : s.ctrl.omode = .bits) :
    (emitted q s).obits = s.obits ++ q.map symbol := by
  rw [← emit_eq_emitted, emit_obits_of_bits h]

/-- `SCAN` from index 0 over a held mark whose lengths the active scanner profile accepts stops right after it. -/
theorem exec_scan_of_held_mark {w : State} {m : MarkLengths} (hmin : (scanProfile w).minZ.toNat ≤ m.gap.toNat)
    (hhi : m.markHi = (scanProfile w).hRun) (hlo : m.markLo = (scanProfile w).lRun)
    (hhigh : 1 ≤ (scanProfile w).hRun.toNat) (hlow : 1 ≤ (scanProfile w).lRun.toNat) (hidx : w.idx.toNat = 0)
    (hholds : Holds w 0 (markPattern m)) :
    ∃ v, exec .scan w = .next v ∧ v.stat.sst = .found ∧ v.idx.toNat = (markPattern m).length ∧
      latest v = answer 0 (markPattern m).length := by
  have hinside := holds_length_le hholds (by simp [markPattern])
  have hlen := w.len.isLt
  rw [markPattern_eq_syncMark, hhi, hlo] at hholds hinside ⊢
  have hscan := scanFindsMarkAtIndex w m.gap.toNat hmin hhigh hlow (hidx ▸ hholds)
  rw [hidx, ← scanProfile, ← length_syncMark, Nat.zero_add] at hscan
  exact ⟨_, hscan, rfl, count_toNat (by omega), latest_returned _ _⟩

/-- `MARK` in bits form into an empty OBITS leaves the mark's symbols there. -/
theorem exec_mark_emptied {s : State} (sec : Section) (h : s.ctrl.omode = .bits) :
    ∃ t, exec (.mark sec) { s with obits := [] } = .next t ∧
      t.obits = (markPattern (markLengths sec s)).map symbol :=
  ⟨_, exec_mark sec _, emit_obits_of_bits (s := { s with obits := [] }) h⟩

/-- Settles O38: the bound mark is held from index 0 on, and `SCAN` finds it there (`exec_scan_of_held_mark`). -/
theorem emittedMarkIsFound : Obligations.EmittedMarkIsFound := by
  intro s u sec hwf1 hwf2 hmode m hfits
  obtain ⟨hhigh, hlow⟩ := (wf1At_iff s.params sec).mp hwf1
  obtain ⟨hmin, hhi, hlo⟩ := (wf2At_iff s.params s.ctrl.psel sec).mp hwf2
  obtain ⟨t, hmark, hobits⟩ := exec_mark_emptied sec hmode
  have hlength : (markPattern m).length < 2 ^ 24 := (length_syncMark ..).trans_lt hfits
  have hholds := holds_congr (holds_bindInput u hlength) (t := { bindInput ((markPattern m).map symbol) u with
    params := s.params, idx := 0, ctrl := ⟨.bits, .regular, sec⟩ }) rfl rfl
  refine ⟨t, hmark, ?_⟩
  rw [hobits, List.length_map]
  exact exec_scan_of_held_mark hmin hhi hlo hhigh hlow rfl hholds

end Sys2Proof.Proofs
end

section
/-! SUPPORT. A state beside its PCM twin, which differs in CTRL.OMODE, OBITS, SAMPLES and the results delivered: every
command but `RST` and `OMODE` keeps the two side by side (42_output.md R148). -/

namespace Sys2Proof.Proofs

open Sys2Proof.Machine Sys2Proof.Spec

/-- The same state in PCM mode, with `o` and `a` as its streams and `r` as the results delivered so far. -/
def pcmTwin (o a : List Byte) (r : List Word) (s : State) : State :=
  { inPcm s with obits := o, samples := a, results := r }

section Twin

variable (o a : List Byte) (r : List Word) (s : State)

theorem inPcm_eq_pcmTwin : inPcm s = pcmTwin s.obits s.samples s.results s := rfl

@[simp] theorem pcmTwin_stat : (pcmTwin o a r s).stat = s.stat := rfl
@[simp] theorem pcmTwin_idx : (pcmTwin o a r s).idx = s.idx := rfl
@[simp] theorem pcmTwin_len : (pcmTwin o a r s).len = s.len := rfl

/-! ### The input -/

@[simp] theorem symAt_pcmTwin (pos : Nat) : symAt (pcmTwin o a r s) pos = symAt s pos := rfl

@[simp] theorem readFrame_pcmTwin (base : Nat) : readFrame (pcmTwin o a r s) base = readFrame s base :=
  readFrame_congr rfl rfl base

@[simp] theorem readStored_pcmTwin (base : Nat) : readStored (pcmTwin o a r s) base = readStored s base := by
  simp [readStored]

theorem readFrames_pcmTwin (n : Nat) :
    readFrames n (pcmTwin o a r s) = (readFrames n s).map (pcmTwin o a r) id := by
  induction n generalizing s with
  | zero => rfl
  | succ n ih =>
    rw [readFrames, readFrames, readFrame_pcmTwin, pcmTwin_idx]
    split
    · rfl
    · exact ih (takeByte _ s)

theorem zeroRunFault_pcmTwin (pos n : Nat) : zeroRunFault (pcmTwin o a r s) pos n = zeroRunFault s pos n := by
  induction n generalizing pos with
  | zero => rfl
  | succ n ih =>
    simp only [zeroRunFault, symAt_pcmTwin, pcmTwin_len, ih]

theorem repeatMarkFault_pcmTwin (pos n : Nat) :
    repeatMarkFault (pcmTwin o a r s) pos n = repeatMarkFault s pos n := by
  rw [repeatMarkFault, zeroRunFault_pcmTwin]
  rfl

/-! ### The scanner -/

theorem countUp_pcmTwin : countUp (pcmTwin o a r s) = pcmTwin o a r (countUp s) := by
  rw [countUp, countUp, apply_ite (pcmTwin o a r)]
  rfl

theorem scanBit_pcmTwin (b : Bool) (pos : Count) :
    scanBit b pos (pcmTwin o a r s) = pcmTwin o a r (scanBit b pos s) := by
  unfold scanBit
  rw [pcmTwin_stat]
  split
  case h_1 | h_3 | h_5 => exact countUp_pcmTwin o a r s
  case h_2 | h_4 | h_6 =>
    rw [apply_ite (pcmTwin o a r)]
    rfl
  case h_7 | h_8 => rfl

theorem scanSymbol_pcmTwin (b : Byte) : scanSymbol b (pcmTwin o a r s) = pcmTwin o a r (scanSymbol b s) := by
  rw [scanSymbol, scanSymbol, apply_ite (pcmTwin o a r)]
  exact congrArg (ite _ _) (scanBit_pcmTwin o a r { s with idx := s.idx + 1 } (b == 1) s.idx)

theorem restart_pcmTwin : restart (pcmTwin o a r s) = pcmTwin o a r (restart s) :=
  (apply_ite (pcmTwin o a r) (s.stat.sst = .failed) (scannerReset s) s).symm

/-! ### The ends of a command, and the output stage -/

theorem ok_pcmTwin (v : Count) : ok v (pcmTwin o a r s) = pcmTwin o a (r ++ [resultWord 0 v]) (ok v s) := rfl

theorem raise_pcmTwin (k : Kind) (e : Count) :
    ∃ r', raise k e (pcmTwin o a r s) = pcmTwin o a r' (raise k e s) := by
  cases k <;> exact ⟨_, rfl⟩

theorem scanLoop_pcmTwin (n : Nat) : ∃ r', scanLoop n (pcmTwin o a r s) = pcmTwin o a r' (scanLoop n s) := by
  induction n generalizing s with
  | zero =>
    rw [scanLoop, scanLoop, restart_pcmTwin, pcmTwin_stat, pcmTwin_idx]
    split
    · exact ⟨_, ok_pcmTwin ..⟩
    · exact raise_pcmTwin ..
  | succ n ih =>
    rw [scanLoop, scanLoop, restart_pcmTwin, pcmTwin_stat, pcmTwin_idx, symAt_pcmTwin]
    split
    · exact ⟨_, ok_pcmTwin ..⟩
    · split
      · exact raise_pcmTwin ..
      · rw [scanSymbol_pcmTwin]
        exact ih _

/-- What the output stage appends to OBITS, it appends rendered to the twin's SAMPLES (42_output.md R140). -/
theorem emit_pcmTwin {s : State} (q : List Bool) (h : s.ctrl.omode = .bits) :
    emit q (pcmTwin o a r s) = pcmTwin o (a ++ q.flatMap (bitSamples s.params s.ctrl.psel)) r (emit q s) := by
  simp [emit, h, pcmTwin, inPcm, ← render_eq_bitSamples, pulseTable]

end Twin

/-! ### Commands that emit nothing -/

/-- The command leaves the twin's streams alone and does the rest to it as to `s`. -/
def Silent (i : Instr) (s : State) : Prop :=
  ∃ t, exec i s = .next t ∧ ∀ o a r, ∃ r', exec i (pcmTwin o a r s) = .next (pcmTwin o a r' t)

section Silent

variable {i : Instr} {s u : State}

theorem Silent.of_ok {v w : Count} (h : exec i s = .next (ok v u))
    (htwin : ∀ o a r, exec i (pcmTwin o a r s) = .next (ok w (pcmTwin o a r u))) : Silent i s :=
  ⟨_, h, fun o a r => ⟨_, htwin o a r⟩⟩

theorem Silent.of_raise {k : Kind} {e : Count} (h : exec i s = .next (raise k e u))
    (htwin : ∀ o a r, exec i (pcmTwin o a r s) = .next (raise k e (pcmTwin o a r u))) : Silent i s := by
  refine ⟨_, h, fun o a r => ?_⟩
  obtain ⟨r', hraise⟩ := raise_pcmTwin o a r u k e
  exact ⟨r', (htwin o a r).trans (congrArg _ hraise)⟩

end Silent

theorem getr_silent (x : Reg) (s : State) : Silent (.getr x) s := ⟨_, rfl, fun _ _ _ => ⟨_, rfl⟩⟩

theorem frd_silent (s : State) : Silent .frd s := by
  cases h : readFrame s s.idx.toNat with
  | ok v => exact .of_ok (exec_frd_of_ok h) fun o a r => exec_frd_of_ok ((readFrame_pcmTwin o a r s _).trans h)
  | error e =>
    exact .of_raise (exec_frd_of_error h) fun o a r => exec_frd_of_error ((readFrame_pcmTwin o a r s _).trans h)

theorem frdn_silent (n : Half) (s : State) : Silent (.frdn n) s := by
  have htwin (o a : List Byte) (r : List Word) := readFrames_pcmTwin o a r s n.toNat
  rcases h : readFrames n.toNat s with ⟨t, _ | e⟩ <;> rw [h] at htwin
  · exact .of_ok (exec_frdn_of_none h) fun o a r => exec_frdn_of_none (htwin o a r)
  · exact .of_raise (exec_frdn_of_some h) fun o a r => exec_frdn_of_some (htwin o a r)

theorem frck_silent (s : State) : Silent .frck s := by
  have htwin (o a : List Byte) (r : List Word) := readStored_pcmTwin o a r s s.idx.toNat
  rcases h : readStored s s.idx.toNat with e | c <;> rw [h] at htwin
  · exact .of_raise (exec_frck_of_error h) fun o a r => exec_frck_of_error (htwin o a r)
  · have hexec := exec_frck_of_ok h
    have hexec_twin (o a : List Byte) (r : List Word) := exec_frck_of_ok (htwin o a r)
    by_cases hc : c = s.cks
    · exact .of_ok (hexec.trans (congrArg _ (if_pos hc))) fun o a r =>
        (hexec_twin o a r).trans (congrArg _ (if_pos hc))
    · exact .of_raise (hexec.trans (congrArg _ (if_neg hc))) fun o a r =>
        (hexec_twin o a r).trans (congrArg _ (if_neg hc))

theorem sstep_silent (s : State) : Silent .sstep s := by
  by_cases hstopped : s.stat.sst = .found ∨ s.stat.sst = .failed
  · exact ⟨_, exec_sstep_of_stopped hstopped, fun o a r => ⟨_, exec_sstep_of_stopped hstopped⟩⟩
  · obtain ⟨hfound, hfailed⟩ := not_or.mp hstopped
    cases h : symAt s s.idx.toNat with
    | none =>
      exact ⟨_, exec_sstep_of_end hfound hfailed h, fun o a r => ⟨_, exec_sstep_of_end hfound hfailed h⟩⟩
    | some b =>
      have htwin (o a : List Byte) (r : List Word) := exec_sstep_of_symbol (s := pcmTwin o a r s) hfound hfailed h
      simp only [scanSymbol_pcmTwin] at htwin
      exact ⟨_, exec_sstep_of_symbol hfound hfailed h, fun o a r => ⟨_, htwin o a r⟩⟩

theorem scan_silent (s : State) : Silent .scan s := by
  refine ⟨_, exec_scan s, fun o a r => ?_⟩
  obtain ⟨r', hloop⟩ := scanLoop_pcmTwin o a r (scannerReset s) (s.len.toNat - s.idx.toNat)
  exact ⟨r', (exec_scan _).trans (congrArg _ hloop)⟩

theorem exec_rmark_raises {s : State} {e : Nat}
    (h : repeatMarkFault s s.idx.toNat s.params.rptZeros.toNat = some e) :
    exec .rmark s = .next (raise .repeatMarkNotFound (BitVec.ofNat 24 e) s) := by
  simp only [exec, execRmark, h]

theorem rmark_silent (s : State) : Silent .rmark s := by
  have htwin (o a : List Byte) (r : List Word) := repeatMarkFault_pcmTwin o a r s s.idx.toNat s.params.rptZeros.toNat
  rcases h : repeatMarkFault s s.idx.toNat s.params.rptZeros.toNat with _ | e <;> rw [h] at htwin
  · exact .of_ok (exec_rmark_of_none h) fun o a r => exec_rmark_of_none (htwin o a r)
  · exact .of_raise (exec_rmark_raises h) fun o a r => exec_rmark_raises (htwin o a r)

/-! ### Every command -/

/-- The bits a command hands to the output stage (42_output.md R144 to R147, 40_frame.md R102, R103). -/
def emission : Instr → State → List Bool
  | .fwr v, _ => frame v
  | .fwck, s => frame (highByte s.cks) ++ frame (lowByte s.cks)
  | .emitb b, _ => [b]
  | .gap n, _ => List.replicate n.toNat false
  | .mark sec, s => markPattern (markLengths sec s)
  | .rpt, s => repeatPattern s.params.rptZeros
  | _, _ => []

theorem exec_obits_of_bits {i : Instr} {s t : State} (h : exec i s = .next t) (hrst : i ≠ .rst)
    (hmode : s.ctrl.omode = .bits) : t.obits = s.obits ++ (emission i s).map symbol := by
  obtain ⟨-, hstreams⟩ := streamsOnlyGrow s t i h
  obtain ⟨-, -, -, -, -, hquiet, -⟩ := hstreams hrst
  cases i with
  | fwr | fwck | emitb | gap | mark | rpt =>
    obtain rfl := Host.Outcome.next.inj h
    exact emit_obits_of_bits hmode
  | rst => exact absurd rfl hrst
  | _ =>
    have hkept : t.obits = s.obits := (hquiet (by simp) (by simp) (by simp) (by simp) (by simp) (by simp)).1
    exact hkept.trans (List.append_nil s.obits).symm

/-- The command appends its bits' rendering to the twin's SAMPLES and does the rest to it as to `s`. -/
def Mirrored (i : Instr) (s : State) : Prop :=
  ∃ t, exec i s = .next t ∧ ∀ o a r, ∃ r', exec i (pcmTwin o a r s) =
    .next (pcmTwin o (a ++ (emission i s).flatMap (bitSamples s.params s.ctrl.psel)) r' t)

theorem Silent.mirrored {i : Instr} {s : State} (h : Silent i s) (hnone : emission i s = []) : Mirrored i s := by
  obtain ⟨t, hexec, htwin⟩ := h
  refine ⟨t, hexec, fun o a r => ?_⟩
  rw [hnone, List.flatMap_nil, List.append_nil]
  exact htwin o a r

/-- A command that ends `OK` once it has handed its bits to the output stage. -/
theorem Mirrored.of_emit {i : Instr} {s : State} (hmode : s.ctrl.omode = .bits)
    (h : exec i s = .next (ok 0 (emit (emission i s) s)))
    (htwin : ∀ o a r, exec i (pcmTwin o a r s) = .next (ok 0 (emit (emission i s) (pcmTwin o a r s)))) :
    Mirrored i s := by
  refine ⟨_, h, fun o a r => ⟨r ++ [resultWord 0 0], ?_⟩⟩
  rw [htwin, emit_pcmTwin o a r _ hmode]
  rfl

theorem fwr_mirrored (v : Byte) {s : State} (hmode : s.ctrl.omode = .bits) : Mirrored (.fwr v) s := by
  refine ⟨_, exec_fwr v s, fun o a r => ⟨r ++ [resultWord 0 0], ?_⟩⟩
  rw [exec_fwr, emit_pcmTwin o a r _ hmode]
  rfl

theorem exec_mirrored {i : Instr} {s : State} (hrst : i ≠ .rst) (homode : ∀ m, i ≠ .omode m)
    (hmode : s.ctrl.omode = .bits) : Mirrored i s := by
  cases i with
  | rst => exact absurd rfl hrst
  | omode m => exact absurd rfl (homode m)
  | fwr v => exact fwr_mirrored v hmode
  | fwck | emitb | gap | mark | rpt => exact .of_emit hmode rfl fun _ _ _ => rfl
  | frd => exact (frd_silent s).mirrored rfl
  | frdn n => exact (frdn_silent n s).mirrored rfl
  | frck => exact (frck_silent s).mirrored rfl
  | sstep => exact (sstep_silent s).mirrored rfl
  | scan => exact (scan_silent s).mirrored rfl
  | rmark => exact (rmark_silent s).mirrored rfl
  | getr x => exact (getr_silent x s).mirrored rfl
  | nop | setidx | ckclr | ssel | srst | psel =>
    exact Silent.mirrored (.of_ok rfl fun _ _ _ => rfl) rfl

end Sys2Proof.Proofs
end

section
/-! The obligation of 42_output.md on sequences of commands: PCM mode renders what bits form emits (R148). -/

namespace Sys2Proof.Proofs

open Sys2Proof.Machine Sys2Proof.Spec

theorem symbol_beq_one (b : Bool) : (symbol b == 0x01) = b := by cases b <;> rfl

theorem renderedBits_cons {i : Instr} {s t : State} {q : List Bool} (h : exec i s = .next t)
    (hobits : t.obits = s.obits ++ q.map symbol) (is : List Instr) :
    renderedBits (i :: is) s = q.flatMap (bitSamples s.params s.ctrl.psel) ++ renderedBits is t := by
  simp only [renderedBits, h, hobits, List.drop_left, List.flatMap_map, symbol_beq_one]

/-- A sequence without `RST` and `OMODE`, from a state in bits form and from its twin, command by command. -/
theorem execAll_pcmTwin {is : List Instr} {s : State} (his : ∀ i ∈ is, i ≠ .rst ∧ ∀ m, i ≠ .omode m)
    (hmode : s.ctrl.omode = .bits) (o a : List Byte) (r : List Word) :
    ∃ t r', execAll is s = some t ∧ t.samples = s.samples ∧
      execAll is (pcmTwin o a r s) = some (pcmTwin o (a ++ renderedBits is s) r' t) := by
  induction is generalizing s a r with
  | nil => exact ⟨s, r, rfl, rfl, by simp [execAll, renderedBits]⟩
  | cons i is ih =>
    obtain ⟨⟨hrst, homode⟩, hrest⟩ := List.forall_mem_cons.mp his
    obtain ⟨t, hexec, hmirror⟩ := exec_mirrored hrst homode hmode
    obtain ⟨r', htwin⟩ := hmirror o a r
    obtain ⟨-, -, -, hkeeps, -⟩ := registerWriters s t i hexec hrst
    obtain ⟨-, hstreams⟩ := streamsOnlyGrow s t i hexec
    obtain ⟨-, -, -, hsamples, -⟩ := hstreams hrst
    have hobits := exec_obits_of_bits hexec hrst hmode
    obtain ⟨u, r'', hall, hsamples_rest, htwin_rest⟩ := ih hrest ((hkeeps homode).trans hmode) _ r'
    refine ⟨u, r'', (execAll_cons hexec is).trans hall, hsamples_rest.trans (hsamples hmode), ?_⟩
    rw [execAll_cons htwin is, htwin_rest, renderedBits_cons hexec hobits is, List.append_assoc]

/-- Settles O39: the run in PCM mode is that of the twin (`execAll_pcmTwin`). -/
theorem pcmRendersTheBits : Obligations.PcmRendersTheBits := by
  intro is s his hmode
  obtain ⟨t, r, hbits, hsamples, hpcm⟩ := execAll_pcmTwin his hmode s.obits s.samples s.results
  rw [← inPcm_eq_pcmTwin] at hpcm
  exact ⟨t, _, hbits, hpcm, hsamples, rfl, rfl, rfl⟩

end Sys2Proof.Proofs
end

section
/-! SUPPORT. The value that `GETR` reads, field by field (10_state.md R20, R24, R25), and what the decode procedure
refuses while the fault bit is set (60_exceptions.md R206). -/

namespace Sys2Proof.Proofs

open Sys2Proof.Machine Sys2Proof.Spec

/-! ### The fields of CTRL and STAT -/

/-- A concatenation of fields as a number: `y` in the low bits. -/
theorem toNat_append_eq_add {m n : Nat} (x : BitVec m) (y : BitVec n) :
    (x ++ y).toNat = x.toNat * 2 ^ n + y.toNat := by
  rw [BitVec.toNat_append, ← Nat.shiftLeft_add_eq_or_of_lt y.isLt, Nat.shiftLeft_eq]

theorem sectionBit_toNat (sec : Section) : (sectionBit sec).toNat = if sec = .payload then 1 else 0 := by
  cases sec <;> rfl

theorem profileBit_toNat (p : PulseProfile) : (profileBit p).toNat = if p = .fast then 1 else 0 := by cases p <;> rfl

theorem outModeBit_toNat (m : OutMode) : (outModeBit m).toNat = if m = .pcm then 1 else 0 := by cases m <;> rfl

theorem number_toNat_eq_sstNumber (x : ScanState) : x.number.toNat = sstNumber x := by cases x <;> rfl

theorem errBits_toNat (err : Option Kind) : (errBits err).toNat = (err.map codeOf).getD 0 := by
  cases err with
  | none => rfl
  | some k => exact code_toNat_eq_codeOf k

theorem ctrlBits_toNat (s : State) : (ctrlBits s.ctrl).toNat = registerValue .ctrl s := by
  rw [ctrlBits, toNat_append_eq_add, toNat_append_eq_add, sectionBit_toNat, profileBit_toNat, outModeBit_toNat,
    registerValue]
  split_ifs <;> rfl

theorem statBits_toNat (s : State) : (statBits s.stat).toNat = registerValue .stat s := by
  rw [statBits, toNat_append_eq_add, toNat_append_eq_add, errBits_toNat, number_toNat_eq_sstNumber, registerValue]
  cases s.stat.flt <;> simp <;> omega

/-! ### A register as a number -/

/-- No register is wider than the 24 bits it is read with, so it is read whole. -/
theorem readReg_toNat (r : Reg) (s : State) : (readReg r s).toNat = registerValue r s := by
  cases r with
  | ctrl => exact (BitVec.toNat_setWidth_of_le (by decide)).trans (ctrlBits_toNat s)
  | stat => exact (BitVec.toNat_setWidth_of_le (by decide)).trans (statBits_toNat s)
  | cks | data => exact BitVec.toNat_setWidth_of_le (by decide)
  | idx | run | eidx | len => rfl

/-! ### The fault bit -/

theorem raise_illegalCommand_eq_illegal (s : State) : raise .illegalCommand 0 s = illegal s := rfl

/-- While the fault bit is set every word but that of `RST` is refused (60_exceptions.md R206). -/
theorem issueWord_of_fault {w : Word} {s : State} (hflt : s.stat.flt = true) (hword : w ≠ rstWord) :
    issueWord w s = .next (illegal s) := by
  rcases issueWord_cases w s with ⟨-, -, hrefused⟩ | ⟨haccepted, -⟩
  · rw [hrefused, raise_illegalCommand_eq_illegal]
  · exact absurd ⟨hflt, hword⟩ haccepted

/-- `RST` has one word, and no other command has it (30_encoding.md R83). -/
theorem encode_eq_rstWord_iff {i : Instr} : encode i = rstWord ↔ i = .rst := by
  rw [← decode_eq_ok_iff, decode_rstWord, Except.ok.injEq, eq_comm]

end Sys2Proof.Proofs
end

section
/-! The obligations of 43_system.md: the four system commands, and `RST` as the one command that runs while the fault
bit is set. -/

namespace Sys2Proof.Proofs

open Sys2Proof.Machine Sys2Proof.Spec

theorem exec_nop (s : State) : exec .nop s = .next (ok 0 s) := rfl

/-- Settles O11. -/
theorem nopOnlyReturns : Obligations.NopOnlyReturns := by
  intro s
  rw [exec_nop, ok_eq_returned]
  rfl

theorem exec_setidx (n : Count) (s : State) : exec (.setidx n) s = .next (ok 0 { s with idx := n }) := rfl

/-- Settles O14. -/
theorem setidxWritesIndex : Obligations.SetidxWritesIndex := by
  intro s n
  rw [exec_setidx, ok_eq_returned]
  rfl

theorem exec_getr (r : Reg) (s : State) : exec (.getr r) s = .next (ok (readReg r s) s) := rfl

/-- Settles O13: the answer is the register as `readReg` assembles it, which is its value by position. -/
theorem getrReturnsRegister : Obligations.GetrReturnsRegister := by
  intro s r
  rw [exec_getr, ok_eq_returned, readReg_toNat]

theorem exec_rst (s : State) : exec .rst s = .next (ok 0 (softReset s)) := rfl

/-- Settles O12: `RST` answers over the soft reset, and its word alone passes a set fault bit. -/
theorem rstRestoresResetState : Obligations.RstRestoresResetState := by
  refine ⟨fun s => ?resets, fun s i rest hinbox hflt => ?onlyRst⟩
  case resets =>
    rw [exec_rst, ok_eq_returned]
    rfl
  case onlyRst =>
    by_cases hrst : i = .rst
    · subst hrst
      exact step_of_command hinbox decode_rstWord (.inr rfl)
    · rw [if_neg hrst, step_of_inbox hinbox]
      exact issueWord_of_fault hflt (encode_eq_rstWord_iff.not.mpr hrst)

end Sys2Proof.Proofs
end

section
/-! The obligations of 44_record_layer.md on the host's data: the 128-byte header layout (R171), its checksum (R172),
the name field (R175, R176), the choice of the header (R183) and the tape-file container (R187). -/

namespace Sys2Proof.Proofs

open Sys2Proof.Machine Sys2Proof.Spec

/-! ### The header layout -/

/-- The fields have the lengths of the layout. -/
theorem header_wf_iff (h : Header) : h.wf = true ↔ h.nameField.length = 17 ∧ h.comment.length = 104 := by
  simp [Header.wf]

/-- A 16-bit field is two bytes, which give it back in their order. -/
theorem fieldBytes_cases (o : ByteOrder) (v : Half) : ∃ a b, fieldBytes o v = [a, b] ∧ fieldOf o a b = v := by
  cases o with
  | little => exact ⟨lowByte v, highByte v, rfl, highByte_append_lowByte v⟩
  | big => exact ⟨highByte v, lowByte v, rfl, highByte_append_lowByte v⟩

theorem length_headerBytes {h : Header} (o : ByteOrder) (hwf : h.wf = true) : (headerBytes o h).length = 128 := by
  obtain ⟨hname, hcomment⟩ := (header_wf_iff h).mp hwf
  obtain ⟨_, _, hlength, -⟩ := fieldBytes_cases o h.fileLength
  obtain ⟨_, _, hload, -⟩ := fieldBytes_cases o h.loadAddr
  obtain ⟨_, _, hstart, -⟩ := fieldBytes_cases o h.startAddr
  simp [headerBytes, hlength, hload, hstart, hname, hcomment]

/-- Each field is read back from its offset in the layout. -/
theorem headerOf_headerBytes {h : Header} (o : ByteOrder) (hwf : h.wf = true) :
    headerOf o (headerBytes o h) = some h := by
  obtain ⟨hname, hcomment⟩ := (header_wf_iff h).mp hwf
  obtain ⟨_, _, hlength, hlengthOf⟩ := fieldBytes_cases o h.fileLength
  obtain ⟨_, _, hload, hloadOf⟩ := fieldBytes_cases o h.loadAddr
  obtain ⟨_, _, hstart, hstartOf⟩ := fieldBytes_cases o h.startAddr
  have hpast : h.nameField.drop 23 = [] := List.drop_eq_nil_of_le (by omega)
  rw [headerOf, if_pos (length_headerBytes o hwf)]
  simp [headerBytes, hlength, hload, hstart, hname, hlengthOf, hloadOf, hstartOf, hpast, List.getElem?_append,
    List.drop_append]

/-- Settles O50: the layout has 128 bytes, and each field is read back from its offset (`headerOf_headerBytes`). -/
theorem headerLayoutRoundTrip : Obligations.HeaderLayoutRoundTrip :=
  fun o _ hwf => ⟨length_headerBytes o hwf, headerOf_headerBytes o hwf⟩

/-- Settles O56: the container's first 128 bytes are the header's, and the rest is the payload. -/
theorem tapeFileRoundTrip : Obligations.TapeFileRoundTrip := by
  intro o r hwf hpayload
  have hlength := length_headerBytes o hwf
  have hheader : headerFromContainer o (tapeFile o r) = some (r.header, none) := by
    rw [headerFromContainer, tapeFile, List.take_left' hlength, headerOf_headerBytes o hwf, Option.map_some]
  have hrest : (tapeFile o r).drop 128 = r.payload := List.drop_left' hlength
  simp only [recordingFromContainer, hheader, hrest, if_pos hpayload]

/-! ### The checksum -/

/-- The additive checksum counts the 1 bits of the bytes, modulo 65536 (40_frame.md R110). -/
theorem recordChecksum_eq_ones (bytes : List Byte) : recordChecksum bytes = BitVec.ofNat 16 (bytes.map ones).sum := by
  rw [recordChecksum, funext popcount8_eq_ones]

/-- Each byte has at most 8 of them. -/
theorem sum_ones_le (bytes : List Byte) : (bytes.map ones).sum ≤ bytes.length * 8 := by
  have hbyte : ∀ n ∈ bytes.map ones, n ≤ 8 :=
    List.forall_mem_map.mpr fun v _ => popcount8_eq_ones v ▸ popcount8_le v
  simpa using List.sum_le_card_nsmul _ 8 hbyte

/-- Settles O51: 128 bytes have at most 1024 bits, which a sum modulo 65536 holds. -/
theorem headerChecksumNeverWraps : Obligations.HeaderChecksumNeverWraps := by
  intro s h hlength
  have hbound : (h.map ones).sum ≤ 1024 := by simpa [hlength] using sum_ones_le h
  obtain ⟨hwritten, -⟩ := checksumCountsDataBits
  obtain ⟨t, hexec, hcks⟩ := hwritten s h
  exact ⟨hbound, recordChecksum_eq_ones h, t, hexec, hcks.trans (Nat.mod_eq_of_lt (by omega))⟩

/-! ### The name -/

theorem encodeHeader_of_fits {name : List Byte} (hname : name.length ≤ 16) (cr attr : Byte) (len load start : Half) :
    encodeHeader cr attr name len load start =
      .ok ⟨attr, name ++ cr :: List.replicate (16 - name.length) 0, len, load, start, List.replicate 104 0⟩ :=
  if_neg (Nat.not_lt.mpr hname)

theorem encodeHeader_of_long {name : List Byte} (hname : 16 < name.length) (cr attr : Byte) (len load start : Half) :
    encodeHeader cr attr name len load start = .error .nameTooLong :=
  if_pos hname

/-- The logical name ends at the first terminator. -/
theorem logicalName_of_terminated {cr : Byte} {name rest : List Byte} {h : Header} (hname : cr ∉ name)
    (hfield : h.nameField = name ++ cr :: rest) : logicalName cr h = name := by
  have hbefore : ∀ b ∈ name, (b != cr) = true := fun b hb => bne_iff_ne.mpr fun heq => hname (heq ▸ hb)
  rw [logicalName, hfield, if_pos (by simp), List.takeWhile_append_of_pos hbefore]
  simp

/-- Settles O52: a name that fits is followed by its terminator, where the logical name ends. -/
theorem nameBoundary : Obligations.NameBoundary := by
  intro cr attr name len load start
  refine ⟨fun hfits hname => ⟨_, encodeHeader_of_fits hfits .., ?wf, ?kept⟩,
    fun hlong => encodeHeader_of_long hlong ..⟩
  case wf =>
    rw [header_wf_iff]
    simp
    omega
  case kept => exact logicalName_of_terminated hname rfl

/-! ### The choice of the header -/

/-- Settles O55: the choice is by the two `mismatch` fields, and between copies that both pass by what they hold. -/
theorem headerChoice : Obligations.HeaderChoice := by
  intro b1 b2 k1 k2 r1 r2
  refine ⟨fun hb hk => if_pos ⟨hb, hk⟩, fun hdiffer => if_neg ?_, rfl, rfl, rfl⟩
  rintro ⟨hb, hk⟩
  exact hdiffer.elim (· hb) (· hk)

end Sys2Proof.Proofs
end

section
/-! SUPPORT. Commands that the host issues one after another (30_encoding.md R88): while the fault bit is clear each is
accepted and executed, and a stage that ends with `OK` has completed. -/

namespace Sys2Proof.Proofs

open Sys2Proof.Machine Sys2Proof.Spec

/-! ### Result words as the host reads them -/

theorem resultCode_answer (code : Nat) {value : Nat} (hvalue : value < 2 ^ 28) :
    resultCode (answer code value) = BitVec.ofNat 4 code := by
  apply BitVec.eq_of_toNat_eq
  have hword : (answer code value).toNat = (code * 2 ^ 28 + value) % 2 ^ 32 := BitVec.toNat_ofNat ..
  rw [resultCode, BitVec.extractLsb'_toNat, hword, BitVec.toNat_ofNat, Nat.shiftRight_eq_div_pow]
  omega

theorem lastResult_returned (v : Nat) (s : State) : lastResult (returned v s) = answer 0 v := latest_returned v s

theorem lastOk_returned {v : Nat} (hv : v < 2 ^ 28) (s : State) : lastOk (returned v s) = true := by
  rw [lastOk, lastResult_returned, resultCode_answer 0 hv]
  rfl

theorem lastResult_latched (k : Kind) (pos : Nat) (s : State) :
    lastResult (latched k pos s) = answer (codeOf k) pos := by
  simp [lastResult, latched]

theorem resultCode_latched (k : Kind) {pos : Nat} (hpos : pos < 2 ^ 28) (s : State) :
    resultCode (lastResult (latched k pos s)) = k.code := by
  rw [lastResult_latched, resultCode_answer _ hpos]
  cases k <;> rfl

theorem lastOk_latched (k : Kind) {pos : Nat} (hpos : pos < 2 ^ 28) (s : State) : lastOk (latched k pos s) = false := by
  rw [lastOk, resultCode_latched k hpos]
  exact beq_false_of_ne (code_ne_zero k)

/-! ### Accepted commands -/

/-- A command's own word is accepted while the fault bit is clear. -/
theorem issueWord_encode {s : State} (hflt : s.stat.flt = false) (i : Instr) : issueWord (encode i) s = exec i s :=
  issueWord_of_decode_ok (encodedCommandDecodesToItself i) (.inl hflt)

/-- A command that answers `OK` lets the sequence go on. -/
theorem issueAll_cons_of_returned {i : Instr} {s t : State} {v : Nat} (hflt : s.stat.flt = false)
    (h : exec i s = .next (returned v t)) (hv : v < 2 ^ 28) (is : List Instr) :
    issueAll (i :: is) s = issueAll is (returned v t) := by
  simp only [issueAll, issueWord_encode hflt, h, lastOk_returned hv, if_true]

/-- A stage whose last command answers `OK` has completed. -/
theorem sendAll_of_returned {is : List Instr} {s t : State} {v : Nat} (h : issueAll is s = .next (returned v t))
    (hv : v < 2 ^ 28) (stage : Stage) : sendAll stage is s = .ok (returned v t) := by
  simp only [sendAll, h, lastOk_returned hv, if_true]

theorem sendAll_setidx {s : State} (hflt : s.stat.flt = false) (stage : Stage) (n : Count) :
    sendAll stage [.setidx n] s = .ok (returned 0 { s with idx := n }) :=
  sendAll_of_returned (issueAll_cons_of_returned hflt (setidxWritesIndex s n) (by decide) []) (by decide) stage

theorem bindBits_of_fits {q : List Byte} (hq : q.length < 2 ^ 24) (s : State) : bindBits q s = .ok (bindInput q s) := by
  simp only [bindBits, hostAction_bind_fits s ((bindable_iff q).mpr hq)]

end Sys2Proof.Proofs
end

section
/-! SUPPORT. Reading a record that stands in the input (44_record_layer.md R176, R179): its bytes, then its stored
checksum, which matches or leaves a mismatch in the copy; at IDX, and at an index of a sequence that is bound first. -/

namespace Sys2Proof.Proofs

open Sys2Proof.Machine Sys2Proof.Spec

@[simp] theorem tookBytes_stat (bytes : List Byte) (s : State) : (tookBytes bytes s).stat = s.stat := by
  induction bytes generalizing s with
  | nil => rfl
  | cons v bytes ih => simp [tookBytes, ih]

/-- The stage that reads a record's bytes completes over their frames, with their checksum in CKS. -/
theorem sendAll_ckclr_frdn {s : State} {bytes : List Byte} (hlen : bytes.length ≤ 65535) (hflt : s.stat.flt = false)
    (h : Holds s s.idx.toNat (bytes.flatMap frameBits)) (stage : Stage) :
    ∃ t, sendAll stage [.ckclr, .frdn (BitVec.ofNat 16 bytes.length)] s = .ok t ∧ t.stat.flt = false ∧
      t.cks = recordChecksum bytes ∧ t.rbuf = s.rbuf ++ bytes ∧ t.idx.toNat = s.idx.toNat + 9 * bytes.length ∧
      t.bits = s.bits ∧ t.len = s.len := by
  have hcount : bytes.length < 2 ^ 28 := by omega
  have hcleared : Holds (returned 0 { s with cks := 0 }) s.idx.toNat (bytes.flatMap frameBits) := holds_congr h rfl rfl
  obtain ⟨-, hidx⟩ := readFrames_of_holds hcleared
  refine ⟨returned bytes.length (tookBytes bytes (returned 0 { s with cks := 0 })), ?_, ?_, ?_, ?_, hidx, ?_, ?_⟩
  · refine sendAll_of_returned ?_ hcount stage
    exact (issueAll_cons_of_returned hflt (ckclrClearsChecksum s) (by decide) _).trans
      (issueAll_cons_of_returned (s := returned 0 { s with cks := 0 }) hflt
        (exec_frdn_of_holds hlen hcleared) hcount [])
  all_goals simp [returned, tookBytes_cks, hflt, recordChecksum_eq_ones]

/-- The state once `FRCK` has read a stored checksum and moved past its two frames (40_frame.md R107). -/
def storedRead (c : Half) (s : State) : State := { s with data := c, idx := BitVec.ofNat 24 (s.idx.toNat + 18) }

/-- `FRCK` over the two frames of a stored checksum. -/
theorem exec_frck_of_holds {s : State} {c : Half}
    (h : Holds s s.idx.toNat (frameBits (highByte c) ++ frameBits (lowByte c))) :
    exec .frck s = .next
      (if c = s.cks then returned c.toNat (storedRead c s)
       else latched .checksumMismatch s.idx.toNat (storedRead c s)) := by
  obtain ⟨hcompares, -⟩ := frckComparesOrReportsFault
  have hfrck := hcompares s (highByte c) (lowByte c) h
  simp only [← toNat_append_bytes, highByte_append_lowByte, BitVec.toNat_inj, BitVec.ofNat_toNat,
    BitVec.setWidth_eq] at hfrck
  exact hfrck

/-- The two frames lie inside the input, so IDX moves past them without wrapping. -/
theorem storedRead_idx_toNat {s : State} {c : Half}
    (h : Holds s s.idx.toNat (frameBits (highByte c) ++ frameBits (lowByte c))) :
    (storedRead c s).idx.toNat = s.idx.toNat + 18 := by
  have hinside : s.idx.toNat + 18 ≤ s.len.toNat := by simpa using holds_length_le h (by simp [frameBits])
  rw [storedRead, BitVec.toNat_ofNat, Nat.mod_eq_of_lt (hinside.trans_lt s.len.isLt)]

/-! ### The record -/

section ReadRecord

variable {stage : Stage} {n : Half} {s t u : State} (hsend : sendAll stage [.ckclr, .frdn n] s = .ok t)
  (hflt : t.stat.flt = false)

include hsend hflt

/-- A checksum that matches ends the reading of the record with no mismatch. -/
theorem readRecord_of_returned {v : Nat} (hv : v < 2 ^ 28) (h : exec .frck t = .next (returned v u)) :
    readRecord stage n s = .ok (copyRead s.rbuf u none, returned v u) := by
  simp only [readRecord, hsend, issueWord_encode hflt, h, lastOk_returned hv, if_true]
  rfl

/-- A checksum that does not match leaves its result word in the copy. -/
theorem readRecord_of_mismatch {pos : Nat} (hpos : pos < 2 ^ 28)
    (h : exec .frck t = .next (latched .checksumMismatch pos u)) :
    readRecord stage n s = .ok (copyRead s.rbuf u (some (answer 3 pos)), latched .checksumMismatch pos u) := by
  have hcode : resultCode (answer 3 pos) = Kind.checksumMismatch.code := resultCode_answer 3 hpos
  simp only [readRecord, hsend, issueWord_encode hflt, h, lastOk_latched _ hpos, lastResult_latched, codeOf, hcode,
    Bool.false_eq_true, if_false, if_true]
  rfl

end ReadRecord

/-- The mismatch word of a record's copy, with the index of its first checksum frame (40_frame.md R107). -/
def mismatchWord (bytes : List Byte) (c : Half) (pos : Nat) : Option Word :=
  if c = recordChecksum bytes then none else some (answer 3 pos)

/-- A record at IDX is read, and what its stored checksum says stands in the copy. -/
theorem readRecord_of_holds {s : State} {bytes : List Byte} {c : Half} (hlen : bytes.length ≤ 65535)
    (hflt : s.stat.flt = false) (h : Holds s s.idx.toNat (recordFrames bytes c)) (stage : Stage) :
    ∃ t, readRecord stage (BitVec.ofNat 16 bytes.length) s =
        .ok (⟨bytes, c, mismatchWord bytes c (s.idx.toNat + 9 * bytes.length)⟩, t) ∧
      t.idx.toNat = s.idx.toNat + (bytes.length + 2) * 9 ∧ t.rbuf = s.rbuf ++ bytes := by
  obtain ⟨hbytes, hstored⟩ := holds_append.mp h
  obtain ⟨t, hsend, hfltt, hcks, hrbuf, hidx, hbits, hlent⟩ := sendAll_ckclr_frdn hlen hflt hbytes stage
  rw [length_flatMap_frameBits, ← hidx] at hstored
  have hchecksum := holds_congr hstored hbits hlent
  have hfrck := exec_frck_of_holds hchecksum
  have hmoved : (storedRead c t).idx.toNat = s.idx.toNat + (bytes.length + 2) * 9 := by
    rw [storedRead_idx_toNat hchecksum]
    omega
  have hcopy (w : Option Word) : copyRead s.rbuf (storedRead c t) w = ⟨bytes, c, w⟩ := by
    simp [copyRead, storedRead, hrbuf]
  rw [mismatchWord, ← hcks, ← hidx]
  by_cases hmatch : c = t.cks
  · rw [if_pos hmatch] at hfrck ⊢
    have hread := readRecord_of_returned hsend hfltt (c.isLt.trans (by decide)) hfrck
    rw [hcopy] at hread
    exact ⟨_, hread, hmoved, hrbuf⟩
  · rw [if_neg hmatch] at hfrck ⊢
    have hread := readRecord_of_mismatch hsend hfltt (t.idx.isLt.trans (by decide)) hfrck
    rw [hcopy] at hread
    exact ⟨_, hread, hmoved, hrbuf⟩

/-- A record at an index of the input is read from there. -/
theorem readRecordAt_of_holds {s : State} {index : Count} {bytes : List Byte} {c : Half}
    (hlen : bytes.length ≤ 65535) (hflt : s.stat.flt = false) (h : Holds s index.toNat (recordFrames bytes c))
    (stage : Stage) :
    ∃ t, readRecordAt stage index (BitVec.ofNat 16 bytes.length) s =
        .ok (⟨bytes, c, mismatchWord bytes c (index.toNat + 9 * bytes.length)⟩, t) ∧
      t.idx.toNat = index.toNat + (bytes.length + 2) * 9 ∧ t.rbuf = s.rbuf ++ bytes := by
  simp only [readRecordAt, sendAll_setidx hflt]
  exact readRecord_of_holds (s := returned 0 { s with idx := index }) hlen hflt (holds_congr h rfl rfl) stage

/-- A bit sequence that stands in a bound one is held from its index on. -/
theorem holds_bindInput_append {before after : List Byte} {q : List Bool} (s : State)
    (hq : (before ++ q.map symbol ++ after).length < 2 ^ 24) :
    Holds (bindInput (before ++ q.map symbol ++ after) s) before.length q := by
  intro k hk
  rw [symAt_bindInput s ((bindable_iff _).mpr hq), List.append_assoc, List.getElem?_append_right (Nat.le_add_right ..),
    Nat.add_sub_cancel_left, List.getElem?_append_left (by simpa using hk)]
  simp [hk]

/-- A record at an index of a bit sequence: the sequence is bound, and the record is read from there. -/
theorem readRecordAt_bindInput {before after bytes : List Byte} {c : Half} (s : State) (hlen : bytes.length ≤ 65535)
    (hflt : s.stat.flt = false)
    (hfits : (before ++ (recordFrames bytes c).map symbol ++ after).length < 2 ^ 24) (stage : Stage) :
    ∃ t, readRecordAt stage (BitVec.ofNat 24 before.length) (BitVec.ofNat 16 bytes.length)
          (bindInput (before ++ (recordFrames bytes c).map symbol ++ after) s) =
        .ok (⟨bytes, c, mismatchWord bytes c (before.length + 9 * bytes.length)⟩, t) ∧
      t.idx.toNat = before.length + (bytes.length + 2) * 9 ∧ t.rbuf = s.rbuf ++ bytes := by
  have hindex : (BitVec.ofNat 24 before.length).toNat = before.length := by
    have hbefore : before.length < 2 ^ 24 := by simp only [List.length_append] at hfits; omega
    rw [BitVec.toNat_ofNat, Nat.mod_eq_of_lt hbefore]
  have hholds := holds_bindInput_append s hfits
  rw [← hindex] at hholds
  simpa only [hindex, bindInput_rbuf] using readRecordAt_of_holds (s := bindInput _ s) hlen hflt hholds stage

end Sys2Proof.Proofs
end

section
/-! The obligations of 44_record_layer.md on the decodes from an index of a bit sequence (R176, R179). -/

namespace Sys2Proof.Proofs

open Sys2Proof.Machine Sys2Proof.Spec

theorem decodePayloadFromBits_of_fits {q : List Byte} (hq : q.length < 2 ^ 24) (index : Count) (n : Half) (s : State) :
    decodePayloadFromBits q index n s = readRecordAt (.record .payload) index n (bindInput q s) := by
  rw [decodePayloadFromBits, bindBits_of_fits hq]
  rfl

theorem decodeHeaderFromBits_of_read {q : List Byte} {index : Count} {s t : State} {c : RecordCopy} {h : Header}
    (hq : q.length < 2 ^ 24) (hread : readRecordAt (.record .header) index 128 (bindInput q s) = .ok (c, t))
    (hbytes : headerOf s.params.hdr16 c.bytes = some h) : decodeHeaderFromBits q index s = .ok (h, c, t) := by
  have hheader : headerRead s.params.hdr16 c.bytes = .ok h := by simp only [headerRead, hbytes]
  simp only [decodeHeaderFromBits, bindBits_of_fits hq, bind, Except.bind, hread, hheader]
  rfl

/-- Settles O53: the record is read from its index, and its checksum is the one that is stored. -/
theorem payloadDecodesFromBits : Obligations.PayloadDecodesFromBits := by
  intro s before after bytes record hlen hflt hfits
  have hrecord : record = (recordFrames bytes (recordChecksum bytes)).map symbol := by
    simp only [record, recordFrames, List.append_assoc]
  rw [hrecord] at hfits ⊢
  rw [decodePayloadFromBits_of_fits hfits]
  simpa only [mismatchWord, if_true] using readRecordAt_bindInput s hlen hflt hfits (.record .payload)

/-- Settles O54: the record is read from its index, its bytes are the header's layout (`headerOf_headerBytes`), and the
stored checksum is judged in the copy (`mismatchWord`). -/
theorem headerDecodesFromBits : Obligations.HeaderDecodesFromBits := by
  intro s before after h stored bytes record hwf hflt hfits
  have hrecord : record = (recordFrames bytes stored).map symbol := by
    simp only [record, recordFrames, List.append_assoc]
  have hlength : bytes.length = 128 := length_headerBytes s.params.hdr16 hwf
  rw [hrecord] at hfits ⊢
  obtain ⟨t, hread, hidx, -⟩ := readRecordAt_bindInput s (by omega) hflt hfits (.record .header)
  rw [hlength] at hread hidx
  exact ⟨t, decodeHeaderFromBits_of_read hfits hread (headerOf_headerBytes _ hwf), hidx⟩

end Sys2Proof.Proofs
end

section
/-! The obligation of 44_record_layer.md on the length of a recording (R180): each command of the encode program (R178)
appends a number of bits that the parameters and the pulse profile alone decide. -/

namespace Sys2Proof.Proofs

open Sys2Proof.Machine Sys2Proof.Spec

/-- The number of bits a command hands to the output stage (40_frame.md R102, R103, 42_output.md R144 to R147). -/
def commandBits (t : Params) (p : PulseProfile) (i : Instr) : Nat :=
  match i with
  | .fwr _ => 9
  | .fwck => 18
  | .emitb _ => 1
  | .gap n => n.toNat
  | .mark sec => markBits t p sec
  | .rpt => t.rptZeros.toNat + 1
  | .nop | .rst | .getr _ | .setidx _ | .frd | .frdn _ | .frck | .ckclr | .ssel _ | .srst | .sstep | .scan | .rmark
  | .omode _ | .psel _ => 0

theorem length_markPattern (sec : Section) (s : State) :
    (markPattern (markLengths sec s)).length = markBits s.params s.ctrl.psel sec := by
  rw [markPattern_eq_syncMark, length_syncMark]
  rfl

theorem length_emission (i : Instr) (s : State) : (emission i s).length = commandBits s.params s.ctrl.psel i := by
  cases i with
  | mark sec => exact length_markPattern sec s
  | gap n => exact List.length_replicate
  | rpt => exact congrArg (· + 1) List.length_replicate
  | _ => rfl

/-- The command selects neither the output mode nor the pulse profile, as `RST`, `OMODE` and `PSEL` do. -/
def KeepsOutput (i : Instr) : Prop := i ≠ .rst ∧ (∀ m, i ≠ .omode m) ∧ ∀ p, i ≠ .psel p

/-- In bits form OBITS grows by the bits of each command. -/
theorem execAll_obits_length {is : List Instr} {s : State} (his : ∀ i ∈ is, KeepsOutput i)
    (hmode : s.ctrl.omode = .bits) :
    ∃ t, execAll is s = some t ∧
      t.obits.length = s.obits.length + (is.map (commandBits s.params s.ctrl.psel)).sum := by
  induction is generalizing s with
  | nil => exact ⟨s, rfl, rfl⟩
  | cons i is ih =>
    obtain ⟨⟨hrst, homode, hpsel⟩, hrest⟩ := List.forall_mem_cons.mp his
    obtain ⟨-, t, hexec, -, -⟩ := exec_effect i s
    obtain ⟨-, hparams, -, hmodet, hpselt, -⟩ := registerWriters s t i hexec hrst
    obtain ⟨u, hall, hlength⟩ := ih hrest ((hmodet homode).trans hmode)
    refine ⟨u, (execAll_cons hexec is).trans hall, ?_⟩
    rw [hlength, exec_obits_of_bits hexec hrst hmode, hparams, hpselt hpsel, List.length_append, List.length_map,
      length_emission, List.map_cons, List.sum_cons, Nat.add_assoc]

/-! ### The encode program -/

theorem keepsOutput_fwr (v : Byte) : KeepsOutput (.fwr v) := by simp [KeepsOutput]
theorem keepsOutput_fwck : KeepsOutput .fwck := by simp [KeepsOutput]
theorem keepsOutput_ckclr : KeepsOutput .ckclr := by simp [KeepsOutput]
theorem keepsOutput_mark (sec : Section) : KeepsOutput (.mark sec) := by simp [KeepsOutput]
theorem keepsOutput_rpt : KeepsOutput .rpt := by simp [KeepsOutput]

theorem writeRecordProgram_keepsOutput (bytes : List Byte) : ∀ i ∈ writeRecordProgram bytes, KeepsOutput i := by
  have hend : ∀ i ∈ [Instr.fwck], KeepsOutput i := List.forall_mem_singleton.mpr keepsOutput_fwck
  have hbytes : ∀ i ∈ bytes.map Instr.fwr, KeepsOutput i := List.forall_mem_map.mpr fun v _ => keepsOutput_fwr v
  exact List.forall_mem_cons.mpr ⟨keepsOutput_ckclr, List.forall_mem_append.mpr ⟨hbytes, hend⟩⟩

theorem copiesProgram_keepsOutput (p : PulseProfile) (bytes : List Byte) :
    ∀ i ∈ copiesProgram p bytes, KeepsOutput i := by
  have hrecord := writeRecordProgram_keepsOutput bytes
  cases p with
  | fast => exact hrecord
  | regular => exact List.forall_mem_append.mpr ⟨hrecord, List.forall_mem_cons.mpr ⟨keepsOutput_rpt, hrecord⟩⟩

/-- What follows the three selections of the encode program: the two marks, each with its record's copies (R178). -/
def recordingProgram (p : PulseProfile) (h b : List Byte) : List Instr :=
  .mark .header :: (copiesProgram p h ++ .mark .payload :: copiesProgram p b)

theorem recordingProgram_keepsOutput (p : PulseProfile) (h b : List Byte) :
    ∀ i ∈ recordingProgram p h b, KeepsOutput i := by
  have hpayload := List.forall_mem_cons.mpr ⟨keepsOutput_mark .payload, copiesProgram_keepsOutput p b⟩
  have hheader := List.forall_mem_append.mpr ⟨copiesProgram_keepsOutput p h, hpayload⟩
  exact List.forall_mem_cons.mpr ⟨keepsOutput_mark .header, hheader⟩

/-- The selections leave an empty OBITS in bits form under the profile. -/
theorem execAll_encodeProgram (p : PulseProfile) (h b : List Byte) (s : State) :
    ∃ t, execAll (encodeProgram .bits p h b) s = execAll (recordingProgram p h b) t ∧ t.obits = [] ∧
      t.params = s.params ∧ t.ctrl.omode = .bits ∧ t.ctrl.psel = p := by
  obtain ⟨hreset, -⟩ := rstRestoresResetState
  obtain ⟨-, homode, hpsel⟩ := selectionWritesOneField
  refine ⟨_, (execAll_cons (hreset s) _).trans ((execAll_cons (homode _ .bits) _).trans
    (execAll_cons (hpsel _ p) _)), rfl, rfl, rfl, rfl⟩

theorem sum_commandBits_writeRecordProgram (t : Params) (p : PulseProfile) (bytes : List Byte) :
    ((writeRecordProgram bytes).map (commandBits t p)).sum = recordBits bytes.length := by
  simp [writeRecordProgram, recordBits, commandBits, Function.comp_def, Nat.add_mul]

/-- The commands of a recording append as many bits as R180 says. -/
theorem sum_commandBits_recordingProgram (t : Params) (p : PulseProfile) {h : List Byte} (hh : h.length = 128)
    (b : List Byte) : ((recordingProgram p h b).map (commandBits t p)).sum = recordingBits t p b.length := by
  cases p with
  | fast | regular =>
    simp only [recordingProgram, copiesProgram, List.append_assoc, List.cons_append, List.map_cons, commandBits,
      List.map_append, List.sum_cons, List.sum_append, sum_commandBits_writeRecordProgram, hh, recordingBits]
    omega

/-- Settles O40: what follows the selections appends its commands' bits to an empty OBITS (`execAll_obits_length`), and
their sum is the recording's length. -/
theorem recordingLength : Obligations.RecordingLength := by
  intro s p h b hh m
  obtain ⟨t, hselect, hempty, hparams, hmode, hpsel⟩ := execAll_encodeProgram p h b s
  obtain ⟨u, hall, hlength⟩ := execAll_obits_length (recordingProgram_keepsOutput p h b) hmode
  refine ⟨u, hselect.trans hall, ?_⟩
  rw [hlength, hempty, hparams, hpsel, sum_commandBits_recordingProgram _ _ hh]
  cases p with
  | fast => simp [recordingBits, recordBits, markBits, m]
  | regular => simp [recordingBits, recordBits, markBits, m, Nat.mul_assoc]

end Sys2Proof.Proofs
end

section
/-! The obligations of 60_exceptions.md: a command's failure is a result word and a latch, an illegal word sets the
fault bit, and no command word stops the machine. -/

namespace Sys2Proof.Proofs

open Sys2Proof.Machine Sys2Proof.Spec

/-! ### Success and failure of an accepted command -/

theorem isOk_latest_ok (v : Count) (s : State) : isOk (latest (ok v s)) = true := by
  rw [latest_ok]
  exact (isOk_resultWord 0 v).mpr rfl

theorem answers_ok_of_exec {i : Instr} {s u : State} {v : Count} (h : exec i s = .next (ok v u)) :
    ∃ t, exec i s = .next t ∧ isOk (latest t) = true :=
  ⟨ok v u, h, isOk_latest_ok v u⟩

/-- Settles O42: outside the six reading commands the meaning of a command is `ok` over its work. -/
theorem writeSideNeverFails : Obligations.WriteSideNeverFails := by
  intro s i hfrd hfrdn hfrck hsstep hscan hrmark
  cases i with
  | frd => exact absurd rfl hfrd
  | frdn n => exact absurd rfl (hfrdn n)
  | frck => exact absurd rfl hfrck
  | sstep => exact absurd rfl hsstep
  | scan => exact absurd rfl hscan
  | rmark => exact absurd rfl hrmark
  | nop | rst | getr | setidx | fwr | fwck | ckclr | ssel | srst | omode | psel | emitb | gap | mark | rpt =>
    exact answers_ok_of_exec rfl

/-- A result word other than `OK` is that of the failure now latched in ERR and EIDX (60_exceptions.md R204). -/
theorem Ends.latch_of_not_isOk {u t : State} (hend : Ends u t) (hfails : isOk (latest t) = false) :
    ∃ k, k ≠ .illegalCommand ∧ t.stat.err = some k ∧ latest t = answer (codeOf k) t.eidx.toNat := by
  cases hend with
  | ok v => cases (isOk_latest_ok v u).symm.trans hfails
  | fails k e hk =>
    refine ⟨k, hk, raise_err u k e, ?_⟩
    rw [latest_raise k e u hk, raise_eidx u k e hk, resultWord_eq_answer, code_toNat_eq_codeOf]

theorem ne_rst_of_not_isOk {i : Instr} {s t : State} (h : exec i s = .next t) (hfails : isOk (latest t) = false) :
    i ≠ .rst := by
  rintro rfl
  obtain rfl := Host.Outcome.next.inj ((exec_rst s).symm.trans h)
  cases (isOk_latest_ok 0 (softReset s)).symm.trans hfails

/-- Settles O43: what a failure latches is told by the end of the command (`Ends`); what stays, by the writers of STAT
(`registerWriters`), for `RST` never fails. -/
theorem failuresLatch : Obligations.FailuresLatch := by
  intro s t i h
  refine ⟨fun hfails => ?fails, fun hok hrst => ?succeeds⟩
  case fails =>
    obtain ⟨u, -, hend⟩ := worked_ends_of_exec h
    obtain ⟨k, hk, herr, hlatest⟩ := hend.latch_of_not_isOk hfails
    obtain ⟨-, -, -, -, -, -, -, hflt, -⟩ := registerWriters s t i h (ne_rst_of_not_isOk h hfails)
    exact ⟨k, hk, herr, hlatest, hflt⟩
  case succeeds =>
    obtain ⟨-, -, -, -, -, -, -, hflt, herr, -⟩ := registerWriters s t i h hrst
    exact ⟨herr hok, hflt⟩

/-! ### Words that are refused -/

/-- An illegal word ends as 60_exceptions.md R205 says; R206 says the same of it while the fault bit is set. -/
theorem issueWord_of_decode_error {w : Word} {e : Illegal} (s : State) (hdecode : decode w = .error e) :
    issueWord w s = .next (illegal s) := by
  rcases issueWord_cases w s with ⟨-, -, h⟩ | ⟨-, ⟨i, hi, -⟩ | ⟨-, -, h⟩⟩
  · rw [h, raise_illegalCommand_eq_illegal]
  · cases hdecode.symm.trans hi
  · rw [h, raise_illegalCommand_eq_illegal]

/-- Settles O6: a word that matches no row of the opcode map does not decode (`decoderFollowsOpcodeMap`). -/
theorem illegalWordSetsFaultBit : Obligations.IllegalWordSetsFaultBit := by
  intro s w rest hinbox _ hunlisted
  obtain ⟨-, -, hillegal⟩ := decoderFollowsOpcodeMap
  obtain ⟨e, hdecode⟩ := hillegal w hunlisted
  rw [step_of_inbox hinbox]
  exact issueWord_of_decode_error _ hdecode

/-- A set fault bit survives every host action but the word of `RST` and a power-on reset (60_exceptions.md R206). -/
theorem hostAction_keeps_fault {e : HostEvent} {s t : State} (hflt : s.stat.flt = true)
    (hrst : e ≠ .command rstWord) (hpower : e ≠ .powerOn) (haction : hostAction e s = .next t) : t.stat.flt = true := by
  cases e with
  | command w =>
    have hword : w ≠ rstWord := fun hw => hrst (congrArg _ hw)
    obtain rfl := Host.Outcome.next.inj ((issueWord_of_fault hflt hword).symm.trans haction)
    rfl
  | bind q =>
    by_cases hq : bindable q = true
    · obtain rfl := Host.Outcome.next.inj ((hostAction_bind_fits s hq).symm.trans haction)
      exact hflt
    · rw [hostAction_bind_tooLong s hq] at haction
      cases haction
  | powerOn => exact absurd rfl hpower

/-- Settles O7: a set fault bit is tested before the encoding (`issueWord_of_fault`), and among the host actions two
clear it (`hostAction_keeps_fault`); a block that waits keeps it. -/
theorem faultBitRefusesAllButReset : Obligations.FaultBitRefusesAllButReset := by
  refine ⟨fun s w rest hinbox hflt hword => ?refused, fun s rest hinbox => ?rst, fun s rest hinbox => ?powerOn,
    fun s t hflt hstep hrst hpower => ?kept⟩
  case refused =>
    rw [step_of_inbox hinbox]
    exact issueWord_of_fault hflt hword
  case rst => exact ⟨_, (step_of_command hinbox decode_rstWord (.inr rfl)).trans (exec_rst _), rfl⟩
  case powerOn => exact ⟨_, step_of_inbox hinbox, rfl⟩
  case kept =>
    rcases step_cases s with ⟨-, h⟩ | ⟨e, rest, hinbox, h⟩ <;> rw [h] at hstep
    · obtain rfl := Host.Outcome.next.inj hstep
      exact hflt
    · have hnotRst : e ≠ .command rstWord := fun he => hrst rest (he ▸ hinbox)
      have hnotPower : e ≠ .powerOn := fun he => hpower rest (he ▸ hinbox)
      exact hostAction_keeps_fault (s := { s with inbox := rest }) hflt hnotRst hnotPower hstep

/-! ### No word stops the machine -/

/-- A refused word is answered, and an accepted command completes (`exec_effect`). -/
theorem issueWord_answers (w : Word) (s : State) : ∃ t, issueWord w s = .next t := by
  rcases issueWord_cases w s with ⟨-, -, h⟩ | ⟨-, ⟨i, -, h⟩ | ⟨-, -, h⟩⟩
  · exact ⟨_, h⟩
  · obtain ⟨-, t, hexec, -, -⟩ := exec_effect i s
    exact ⟨t, h.trans hexec⟩
  · exact ⟨_, h⟩

/-- Settles O47: the step issues the word, which is answered whether legal or not. -/
theorem commandsNeverStopTheMachine : Obligations.CommandsNeverStopTheMachine := by
  intro s w rest hinbox
  obtain ⟨t, h⟩ := issueWord_answers w { s with inbox := rest }
  exact ⟨t, (step_of_inbox hinbox).trans h⟩

end Sys2Proof.Proofs
end

section
/-! The obligations of 70_reset_and_hazards.md: power-on reset gives the reset state (R230), and a block with no host
action pending waits (R245). -/

namespace Sys2Proof.Proofs

open Sys2Proof.Machine Sys2Proof.Spec

theorem hostAction_powerOn (s : State) : hostAction .powerOn s = .next (powerOnReset s) := rfl

/-- What power-on reset keeps of a state is the parameter table, what the host holds, and the model's own counter. -/
theorem powerOnReset_eq_reset (s : State) :
    powerOnReset s =
      { State.reset with params := s.params, inbox := s.inbox, results := s.results, free := s.free } := rfl

theorem step_of_inbox_nil {s : State} (h : s.inbox = []) : step s = .next s := by
  rcases step_cases s with ⟨-, hwaits⟩ | ⟨e, rest, hinbox, -⟩
  · exact hwaits
  · cases h.symm.trans hinbox

/-- With the empty input bound no index holds a symbol (20_memory.md R52). -/
theorem symAt_of_len_eq_zero {s : State} (h : s.len = 0) (pos : Nat) : symAt s pos = none :=
  symAt_eq_none.mpr (by simp [h])

/-- Settles O9: the step is the reset itself (`powerOnReset_eq_reset`), or the block waits (`step_of_inbox_nil`). -/
theorem powerOnAndWaiting : Obligations.PowerOnAndWaiting := by
  refine ⟨fun s rest hinbox => ?powerOn, fun s hidle => step_of_inbox_nil hidle⟩
  case powerOn => rw [step_of_inbox hinbox, hostAction_powerOn, powerOnReset_eq_reset]

/-- Settles O10: the registers and streams by the definition of the reset state, BITS by its length, and the step by
the empty list of pending actions. -/
theorem resetValues : Obligations.ResetValues := by
  refine ⟨rfl, rfl, rfl, rfl, rfl, rfl, rfl, rfl, ?noSymbol, rfl, rfl, rfl, ?waits⟩
  case noSymbol => exact symAt_of_len_eq_zero rfl
  case waits => exact step_of_inbox_nil rfl

end Sys2Proof.Proofs
end
